-- ==== Sys2Proof/Word.lean ====
section
/-! DEFINITION. The words of the engine: a byte, a 16-bit word, register and key numbers (R6, R9). -/

namespace Sys2Proof

/-- `u8`: a general register, a memory byte, a timer, the stack depth (R6). -/
abbrev Byte := BitVec 8

/-- `u16`: an instruction word, `I`, `pc`, a stack entry (R6). -/
abbrev Word := BitVec 16

/-- A general register's index 0..15 (R10, R20). -/
abbrev Reg := Fin 16

/-- A logical key 0x0..0xF (R27, R28). -/
abbrev Key := Fin 16

/-- VF, the flag register, is `V[15]` (R21). -/
abbrev vf : Reg := 15

end Sys2Proof
end

