-- ==== Sys2Proof/Syntax.lean ====
section
/-! DEFINITION. The 35 tags with the operands of the decode table (R95, R103). -/

namespace Sys2Proof

/-- One constructor per row of the opcode table (R95). `Return` is `ret`, since `return` is a word of Lean. -/
inductive Instr where
  /-- `Nop`: any word that matches no legal form (R101, R124). -/
  | nop
  /-- `Clear`, `00E0` (R221). -/
  | clear
  /-- `Return`, `00EE` (R143). -/
  | ret
  /-- `Jump(nnn)`, `1NNN` (R141). -/
  | jump (nnn : BitVec 12)
  /-- `Call(nnn)`, `2NNN` (R142). -/
  | call (nnn : BitVec 12)
  /-- `SkipEqIm(x, nn)`, `3XNN` (R146). -/
  | skipEqIm (x : Reg) (nn : Byte)
  /-- `SkipNeIm(x, nn)`, `4XNN` (R147). -/
  | skipNeIm (x : Reg) (nn : Byte)
  /-- `SkipEq(x, y)`, `5XY0` (R148). -/
  | skipEq (x y : Reg)
  /-- `LoadIm(x, nn)`, `6XNN` (R161). -/
  | loadIm (x : Reg) (nn : Byte)
  /-- `AddIm(x, nn)`, `7XNN` (R162). -/
  | addIm (x : Reg) (nn : Byte)
  /-- `Move(x, y)`, `8XY0` (R163). -/
  | move (x y : Reg)
  /-- `Or(x, y)`, `8XY1` (R164). -/
  | or (x y : Reg)
  /-- `And(x, y)`, `8XY2` (R165). -/
  | and (x y : Reg)
  /-- `Xor(x, y)`, `8XY3` (R166). -/
  | xor (x y : Reg)
  /-- `Add(x, y)`, `8XY4` (R167). -/
  | add (x y : Reg)
  /-- `Sub(x, y)`, `8XY5` (R168). -/
  | sub (x y : Reg)
  /-- `Shr(x)`, `8XY6`, the `y` nibble ignored (R170, R104). -/
  | shr (x : Reg)
  /-- `SubN(x, y)`, `8XY7` (R169). -/
  | subN (x y : Reg)
  /-- `Shl(x)`, `8XYE`, the `y` nibble ignored (R171, R104). -/
  | shl (x : Reg)
  /-- `SkipNe(x, y)`, `9XY0` (R149). -/
  | skipNe (x y : Reg)
  /-- `LoadI(nnn)`, `ANNN` (R181). -/
  | loadI (nnn : BitVec 12)
  /-- `JumpOff(nnn)`, `BNNN` (R144). -/
  | jumpOff (nnn : BitVec 12)
  /-- `Rand(x, nn)`, `CXNN` (R175). -/
  | rand (x : Reg) (nn : Byte)
  /-- `Draw(x, y, n)`, `DXYN`: `n` is a count of sprite rows, 0..15 (R94, R222). -/
  | draw (x y : Reg) (n : Nat)
  /-- `SkipPressed(x)`, `EX9E` (R210). -/
  | skipPressed (x : Reg)
  /-- `SkipNotPressed(x)`, `EXA1` (R211). -/
  | skipNotPressed (x : Reg)
  /-- `LoadFromDelayTimer(x)`, `FX07` (R201). -/
  | loadFromDelayTimer (x : Reg)
  /-- `WaitKeypress(x)`, `FX0A` (R212). -/
  | waitKeypress (x : Reg)
  /-- `LoadDelayTimer(x)`, `FX15` (R202). -/
  | loadDelayTimer (x : Reg)
  /-- `LoadSoundTimer(x)`, `FX18` (R203). -/
  | loadSoundTimer (x : Reg)
  /-- `AddI(x)`, `FX1E` (R182). -/
  | addI (x : Reg)
  /-- `SetSpriteAddr(x)`, `FX29` (R183). -/
  | setSpriteAddr (x : Reg)
  /-- `StoreBcd(x)`, `FX33` (R184). -/
  | storeBcd (x : Reg)
  /-- `StoreRegs(x)`, `FX55` (R185). -/
  | storeRegs (x : Reg)
  /-- `LoadRegs(x)`, `FX65` (R186). -/
  | loadRegs (x : Reg)
  deriving DecidableEq, Repr

end Sys2Proof
end

