-- ==== Sys2Proof/WellFormed.lean ====
section
/-! DEFINITION. What makes a tag one the decoder can produce. Register indices, immediates and addresses are bounded
by their types; the one operand that is a plain number is `Draw`'s line count. -/

namespace Sys2Proof

/-- The line count of `Draw` is a 4-bit field, 0..15 (R92, R94); every other operand's width is its type's. -/
def Instr.wellFormed (i : Instr) : Bool :=
  match i with
  | .draw _ _ n => decide (n < 16)
  | .nop | .clear | .ret | .jump _ | .call _ | .skipEqIm _ _ | .skipNeIm _ _ | .skipEq _ _ | .loadIm _ _ => true
  | .addIm _ _ | .move _ _ | .or _ _ | .and _ _ | .xor _ _ | .add _ _ | .sub _ _ | .shr _ | .subN _ _ => true
  | .shl _ | .skipNe _ _ | .loadI _ | .jumpOff _ | .rand _ _ | .skipPressed _ | .skipNotPressed _ => true
  | .loadFromDelayTimer _ | .waitKeypress _ | .loadDelayTimer _ | .loadSoundTimer _ | .addI _ => true
  | .setSpriteAddr _ | .storeBcd _ | .storeRegs _ | .loadRegs _ => true

end Sys2Proof
end

