-- ==== Sys2Proof/Decode.lean ====
section
/-! DEFINITION. The decoder (R90 to R104), by its keying structure and, beside it, by the rows of its table; then the
encoder. A word always decodes; only a string of fewer than two bytes is refused, by name. Every bit pattern is the
spec's general knowledge (R90, G1; log 15). -/

namespace Sys2Proof

/-! ## Fields (R92) -/

/-- `op = w[15:12]`, the top nibble. -/
def opField (w : Word) : BitVec 4 := w.extractLsb 15 12

/-- `x = w[11:8]`. -/
def xField (w : Word) : Reg := (w.extractLsb 11 8).toFin

/-- `y = w[7:4]`. -/
def yField (w : Word) : Reg := (w.extractLsb 7 4).toFin

/-- `n = w[3:0]`. -/
def nField (w : Word) : BitVec 4 := w.extractLsb 3 0

/-- `nn = w[7:0]`. -/
def nnField (w : Word) : Byte := w.extractLsb 7 0

/-- `nnn = w[11:0]`. -/
def nnnField (w : Word) : BitVec 12 := w.extractLsb 11 0

/-! ## The decoder by its keying structure (R96 to R100) -/

/-- Family 0 is matched on all of the word (R98). -/
def decodeFamily0 (w : Word) : Instr :=
  if w = 0x00E0 then .clear else if w = 0x00EE then .ret else .nop

/-- Family 8 is matched on `n` (R97). -/
def decodeFamily8 (w : Word) : Instr :=
  let x := xField w
  let y := yField w
  match (nField w).toNat with
  | 0x0 => .move x y
  | 0x1 => .or x y
  | 0x2 => .and x y
  | 0x3 => .xor x y
  | 0x4 => .add x y
  | 0x5 => .sub x y
  | 0x6 => .shr x
  | 0x7 => .subN x y
  | 0xE => .shl x
  | _ => .nop

/-- Family E is matched on `nn` (R99). -/
def decodeFamilyE (w : Word) : Instr :=
  let nn := nnField w
  if nn = 0x9E then .skipPressed (xField w) else if nn = 0xA1 then .skipNotPressed (xField w) else .nop

/-- Family F is matched on `nn` (R99). -/
def decodeFamilyF (w : Word) : Instr :=
  let nn := nnField w
  let x := xField w
  if nn = 0x07 then .loadFromDelayTimer x
  else if nn = 0x0A then .waitKeypress x
  else if nn = 0x15 then .loadDelayTimer x
  else if nn = 0x18 then .loadSoundTimer x
  else if nn = 0x1E then .addI x
  else if nn = 0x29 then .setSpriteAddr x
  else if nn = 0x33 then .storeBcd x
  else if nn = 0x55 then .storeRegs x
  else if nn = 0x65 then .loadRegs x
  else .nop

/-- `Decode : u16 -> Tag`, pure and total (R95, R96). Families 5 and 9 have a fixed `n = 0` (R100). -/
def decode (w : Word) : Instr :=
  match (opField w).toNat with
  | 0x0 => decodeFamily0 w
  | 0x1 => .jump (nnnField w)
  | 0x2 => .call (nnnField w)
  | 0x3 => .skipEqIm (xField w) (nnField w)
  | 0x4 => .skipNeIm (xField w) (nnField w)
  | 0x5 => if nField w = 0 then .skipEq (xField w) (yField w) else .nop
  | 0x6 => .loadIm (xField w) (nnField w)
  | 0x7 => .addIm (xField w) (nnField w)
  | 0x8 => decodeFamily8 w
  | 0x9 => if nField w = 0 then .skipNe (xField w) (yField w) else .nop
  | 0xA => .loadI (nnnField w)
  | 0xB => .jumpOff (nnnField w)
  | 0xC => .rand (xField w) (nnField w)
  | 0xD => .draw (xField w) (yField w) (nField w).toNat
  | 0xE => decodeFamilyE w
  | 0xF => decodeFamilyF w
  | _ => .nop

/-! ## Bytes (R61, R91) -/

/-- Why a string of bytes holds no instruction. -/
inductive DecodeError where
  /-- An instruction is exactly two bytes (R91). Raised by `decodeBytes` on a shorter string; safe: the machine's own
  fetch always has two. -/
  | needsTwoBytes
  deriving DecidableEq, Repr

/-- The 16-bit word of two bytes, the first the high one (R61). -/
def wordOfBytes (hi lo : Byte) : Word := hi ++ lo

/-- The first instruction of a string of bytes and the rest of the string. -/
def decodeBytes (bytes : List Byte) : Except DecodeError (Instr × List Byte) :=
  match bytes with
  | hi :: lo :: rest => .ok (decode (wordOfBytes hi lo), rest)
  | [_] => .error .needsTwoBytes
  | [] => .error .needsTwoBytes

/-- The word's two bytes in the order they lie in memory: high byte first (R61). -/
def bytesOfWord (w : Word) : List Byte := [w.extractLsb 15 8, w.extractLsb 7 0]

/-- The word whose bits the opcode table numbers: an instruction is one 16-bit word, bit 0 its least significant. -/
def tableWord (nbits w : Nat) : Word := BitVec.ofNat 16 (w % 2 ^ nbits)

/-- The instruction this decoder reads from a row's bits as spec/opcode_table.json numbers them. -/
def decodeTableWord (nbits w : Nat) : Option Instr :=
  match decodeBytes (bytesOfWord (tableWord nbits w)) with
  | .ok (i, _) => some i
  | .error _ => none

/-! ## The decoder by the rows of its table (R95) -/

/-- One row of the decode table: a word matches when `word AND mask = value` (R95). -/
structure TableRow where
  mask : Word
  value : Word
  build : Word → Instr

/-- The row matches the word. -/
def rowMatches (r : TableRow) (w : Word) : Bool := (w &&& r.mask) == r.value

/-- Rows 1 to 18 of R95. -/
def tableRowsLow : List TableRow := [
  ⟨0xFFFF, 0x00E0, fun _ => .clear⟩,
  ⟨0xFFFF, 0x00EE, fun _ => .ret⟩,
  ⟨0xF000, 0x1000, fun w => .jump (nnnField w)⟩,
  ⟨0xF000, 0x2000, fun w => .call (nnnField w)⟩,
  ⟨0xF000, 0x3000, fun w => .skipEqIm (xField w) (nnField w)⟩,
  ⟨0xF000, 0x4000, fun w => .skipNeIm (xField w) (nnField w)⟩,
  ⟨0xF00F, 0x5000, fun w => .skipEq (xField w) (yField w)⟩,
  ⟨0xF000, 0x6000, fun w => .loadIm (xField w) (nnField w)⟩,
  ⟨0xF000, 0x7000, fun w => .addIm (xField w) (nnField w)⟩,
  ⟨0xF00F, 0x8000, fun w => .move (xField w) (yField w)⟩,
  ⟨0xF00F, 0x8001, fun w => .or (xField w) (yField w)⟩,
  ⟨0xF00F, 0x8002, fun w => .and (xField w) (yField w)⟩,
  ⟨0xF00F, 0x8003, fun w => .xor (xField w) (yField w)⟩,
  ⟨0xF00F, 0x8004, fun w => .add (xField w) (yField w)⟩,
  ⟨0xF00F, 0x8005, fun w => .sub (xField w) (yField w)⟩,
  ⟨0xF00F, 0x8006, fun w => .shr (xField w)⟩,
  ⟨0xF00F, 0x8007, fun w => .subN (xField w) (yField w)⟩,
  ⟨0xF00F, 0x800E, fun w => .shl (xField w)⟩]

/-- Rows 19 to 34 of R95. -/
def tableRowsHigh : List TableRow := [
  ⟨0xF00F, 0x9000, fun w => .skipNe (xField w) (yField w)⟩,
  ⟨0xF000, 0xA000, fun w => .loadI (nnnField w)⟩,
  ⟨0xF000, 0xB000, fun w => .jumpOff (nnnField w)⟩,
  ⟨0xF000, 0xC000, fun w => .rand (xField w) (nnField w)⟩,
  ⟨0xF000, 0xD000, fun w => .draw (xField w) (yField w) (nField w).toNat⟩,
  ⟨0xF0FF, 0xE09E, fun w => .skipPressed (xField w)⟩,
  ⟨0xF0FF, 0xE0A1, fun w => .skipNotPressed (xField w)⟩,
  ⟨0xF0FF, 0xF007, fun w => .loadFromDelayTimer (xField w)⟩,
  ⟨0xF0FF, 0xF00A, fun w => .waitKeypress (xField w)⟩,
  ⟨0xF0FF, 0xF015, fun w => .loadDelayTimer (xField w)⟩,
  ⟨0xF0FF, 0xF018, fun w => .loadSoundTimer (xField w)⟩,
  ⟨0xF0FF, 0xF01E, fun w => .addI (xField w)⟩,
  ⟨0xF0FF, 0xF029, fun w => .setSpriteAddr (xField w)⟩,
  ⟨0xF0FF, 0xF033, fun w => .storeBcd (xField w)⟩,
  ⟨0xF0FF, 0xF055, fun w => .storeRegs (xField w)⟩,
  ⟨0xF0FF, 0xF065, fun w => .loadRegs (xField w)⟩]

/-- The 34 legal forms (R95, C1). -/
def tableRows : List TableRow := tableRowsLow ++ tableRowsHigh

/-- The first row the word matches, and `Nop` where there is none (R95). The machine runs `decode`; that the two agree
is a statement of its own. -/
def decodeByTable (w : Word) : Instr :=
  match tableRows.find? (fun r => rowMatches r w) with
  | some r => r.build w
  | none => .nop

/-! ## The encoder (R93, R95) -/

/-- Format `NNN`: `op nnn`. -/
def encodeNnn (op : BitVec 4) (nnn : BitVec 12) : Word := op ++ nnn

/-- Format `XNN`: `op x nn`; with a fixed sub-opcode byte it is format `XKK`. -/
def encodeXnn (op : BitVec 4) (x : Reg) (nn : Byte) : Word := op ++ (BitVec.ofFin x : BitVec 4) ++ nn

/-- Format `XYN`: `op x y n`. -/
def encodeXyn (op : BitVec 4) (x y : Reg) (n : BitVec 4) : Word :=
  op ++ (BitVec.ofFin x : BitVec 4) ++ (BitVec.ofFin y : BitVec 4) ++ n

/-- The word of an instruction. `Nop` is encoded as the word of zero-filled memory (R98), and the ignored `y` of `Shr`
and `Shl` as 0 (R104; log 19). -/
def encode (i : Instr) : Word :=
  match i with
  | .nop => 0x0000
  | .clear => 0x00E0
  | .ret => 0x00EE
  | .jump nnn => encodeNnn 0x1 nnn
  | .call nnn => encodeNnn 0x2 nnn
  | .skipEqIm x nn => encodeXnn 0x3 x nn
  | .skipNeIm x nn => encodeXnn 0x4 x nn
  | .skipEq x y => encodeXyn 0x5 x y 0x0
  | .loadIm x nn => encodeXnn 0x6 x nn
  | .addIm x nn => encodeXnn 0x7 x nn
  | .move x y => encodeXyn 0x8 x y 0x0
  | .or x y => encodeXyn 0x8 x y 0x1
  | .and x y => encodeXyn 0x8 x y 0x2
  | .xor x y => encodeXyn 0x8 x y 0x3
  | .add x y => encodeXyn 0x8 x y 0x4
  | .sub x y => encodeXyn 0x8 x y 0x5
  | .shr x => encodeXyn 0x8 x 0 0x6
  | .subN x y => encodeXyn 0x8 x y 0x7
  | .shl x => encodeXyn 0x8 x 0 0xE
  | .skipNe x y => encodeXyn 0x9 x y 0x0
  | .loadI nnn => encodeNnn 0xA nnn
  | .jumpOff nnn => encodeNnn 0xB nnn
  | .rand x nn => encodeXnn 0xC x nn
  | .draw x y n => encodeXyn 0xD x y (BitVec.ofNat 4 n)
  | .skipPressed x => encodeXnn 0xE x 0x9E
  | .skipNotPressed x => encodeXnn 0xE x 0xA1
  | .loadFromDelayTimer x => encodeXnn 0xF x 0x07
  | .waitKeypress x => encodeXnn 0xF x 0x0A
  | .loadDelayTimer x => encodeXnn 0xF x 0x15
  | .loadSoundTimer x => encodeXnn 0xF x 0x18
  | .addI x => encodeXnn 0xF x 0x1E
  | .setSpriteAddr x => encodeXnn 0xF x 0x29
  | .storeBcd x => encodeXnn 0xF x 0x33
  | .storeRegs x => encodeXnn 0xF x 0x55
  | .loadRegs x => encodeXnn 0xF x 0x65

end Sys2Proof
end

