-- ==== Sys2Proof/Config.lean ====
section
/-! DEFINITION. What is fixed for the machine: the latched configuration (R7, R34), the fixed sizes (R6) and the
free values, which have no body, so that no proof can see them. -/

namespace Sys2Proof

/-- The configuration latched at reset and constant afterwards (R7, R34, R38). It is held in State, so a statement
about every state is a statement about every configuration (log 3). -/
structure EngineConfig where
  /-- `TARGET_HZ`, instructions per second: a positive multiple of 60 (R7, R286). -/
  targetHz : Nat
  /-- `UNKNOWN_OPCODE_FAULTS` (R7, R125). -/
  unknownOpcodeFaults : Bool
  deriving DecidableEq, Repr

/-- `MEM_SIZE` (R6). -/
def Config.memSize : Nat := 4096

/-- FREE VALUE. The byte `Rand` draws, the `k`-th draw of the run: under no law (R175, U12; log 8). -/
opaque Config.randByte : Nat → Byte

/-- FREE VALUE. How far the clock has advanced, in nanoseconds, at the throttle's `k`-th call (R257, U13; log 9). -/
opaque Config.clockAdvance : Nat → Nat

/-- FREE VALUE. By how many nanoseconds a sleep of the throttle's `k`-th call oversleeps (R258, U13; log 10). -/
opaque Config.oversleep : Nat → Nat

end Sys2Proof
end

