-- ==== Sys2Proof/Machine/State.lean ====
section
/-! DEFINITION. The machine's state as plain data: every element the spec names (R20 to R34, R41, R42), three fields of
the model's own, the outcomes' reasons, and the state after reset (R36). -/

namespace Sys2Proof.Machine

/-- Why the engine raised a fault: the class and sub-kind of R230 as one name. -/
inductive FaultCause where
  /-- `DecodeFault`: `Nop` executed under `UNKNOWN_OPCODE_FAULTS` (R124). -/
  | decode
  /-- `StackFault(Overflow)`: `Call` with a full stack (R142). -/
  | stackOverflow
  /-- `StackFault(Underflow)`: `Return` with an empty stack (R143). -/
  | stackUnderflow
  /-- `AddressingFault(Fetch)`: a fetch with `pc > 0x0FFE` (R121). -/
  | fetch
  /-- `AddressingFault(Data)`: a data access above `0xFFF` (R63). -/
  | data
  /-- `AddressingFault(Key)`: a key index above 15 (R213). -/
  | key
  deriving DecidableEq, Repr

/-- The sub-kinds of R230. -/
inductive FaultKind where
  | overflow
  | underflow
  | fetch
  | data
  | key
  deriving DecidableEq, Repr

/-- The fault record of R234. Its `code` and `kind` are functions of `cause` (`FaultCause.code`, `FaultCause.kind` in
Machine/Ops.lean; log 17). -/
structure FaultRecord where
  cause : FaultCause
  /-- The address of the faulting instruction. -/
  fpc : Word
  /-- The fetched word; none for a fetch fault. -/
  fir : Option Word
  /-- The lowest address above `0xFFF` the access would touch, or the key index; none for the other classes. -/
  faddr : Option Nat
  deriving DecidableEq, Repr

/-- The framebuffer: 32 rows of 64 cells, `true` for ON (R29, R220). -/
abbrev Framebuffer := Vector (Vector Bool 64) 32

/-- Memory: the bytes that differ from their reset content, addresses strictly rising (Machine/Ops.lean). -/
abbrev Memory := List Host.Cell

/-- One write by the outside world between two cycles (R40, R42). -/
inductive GapWrite where
  /-- The input collaborator sets or clears one key's flag (R40). -/
  | key (k : Key) (held : Bool)
  /-- The input collaborator posts a release event, or takes it back (R40). -/
  | release (event : Option Key)
  /-- The driving loop raises or drops `run` (R42). -/
  | run (level : Bool)
  deriving DecidableEq, Repr

/-- The state of the engine. Field names are the spec's. -/
@[ext]
structure State where
  /-- `V[0]`..`V[15]` (R20); `V[15]` is VF (R21). -/
  V : Vector Byte 16
  /-- The index register (R22). -/
  I : Word
  /-- The program counter: between cycles the next instruction's address, during execute the current one's plus 2 (R23). -/
  pc : Word
  /-- The depth counter of the call stack, legal range 0..16 (R24). -/
  SP : Byte
  /-- The 16 stack entries (R24). -/
  stack : Vector Word 16
  /-- The 4096 bytes of memory (R25). -/
  mem : Memory
  /-- The delay timer (R26). -/
  DT : Byte
  /-- The sound timer (R26). -/
  ST : Byte
  /-- The 16 key flags, `true` for held down (R27). -/
  keypad : Vector Bool 16
  /-- The key-released event (R28). -/
  keyReleased : Option Key
  /-- The display cells (R29). -/
  fb : Framebuffer
  /-- Completed cycles modulo 2^64 (R30). -/
  cycleCount : BitVec 64
  /-- The sticky fault record; the engine is halted while there is one (R32). -/
  fault : Option FaultRecord
  /-- The throttle's accumulated surplus, in nanoseconds (R33). -/
  debt : BitVec 64
  /-- The clock reading that starts the throttle's window, in nanoseconds (R33). -/
  wtimer : BitVec 64
  /-- The presentation strobe (R41). -/
  present : Bool
  /-- The tone output (R41, R249). -/
  tone : Bool
  /-- A sleep of the throttle is in progress (R41, R258). -/
  sleeping : Bool
  /-- The control input `run` (R42). -/
  run : Bool
  /-- The latched configuration (R34). -/
  cfg : EngineConfig
  /-- THE MODEL'S OWN (log 7): the outside world's writes still to come, one list per gap between cycles. -/
  inputs : List (List GapWrite)
  /-- THE MODEL'S OWN (log 8): how many bytes `Rand` has drawn. -/
  draws : Nat
  /-- THE MODEL'S OWN (log 9): how many times the throttle has read the clock. -/
  clockReads : Nat
  deriving DecidableEq, Repr

/-- Why a step answers no next state. A fault the SPEC describes is not here: it is a next state with a fault record
(R232; log 12). -/
inductive Fault where
  /-- Raised by `step` while a fault record stands: a halted engine has no cycle until reset (R126, R233). Safe: a
  stuck state, as the spec has it (U17). -/
  | halted
  /-- Raised by `step` while `run` is low: the driving loop steps the engine no further (R42, U16). Safe: a stuck
  state, as the spec has it. -/
  | stopped
  /-- Raised by `Return` when `SP` is above 16, outside the legal range of R24: the entry does not exist. Safe: no run
  from reset reaches such a state (log 13). -/
  | stackEntryAbsent
  deriving DecidableEq, Repr

/-- Why a configuration, or an instruction, has no meaning. -/
inductive Refusal where
  /-- Raised by `exec` for an instruction without a meaning yet; safe. No arm of this model does. -/
  | notModelled (mnemonic : String)
  /-- Raised by `boot`, and by `step` in a state that no `boot` answers: `TARGET_HZ` is no positive multiple of 60, so
  the engine does not leave reset (R7, R286, U9). Safe. -/
  | rateRefused
  /-- Raised by `boot`: the ROM image is longer than 3584 bytes, so the engine does not leave reset (R284, U8). Safe. -/
  | romTooLong
  deriving DecidableEq, Repr

/-- The machine right after reset (R36, R281): registers zeroed, the font in low memory (the reset content of memory,
Machine/Ops.lean), `pc` at `0x200`. What R36 leaves to the platform is named in the log: no ROM (log 4), the
configuration `TARGET_HZ = 60` and `UNKNOWN_OPCODE_FAULTS = false` (log 1, 2), the clock's origin (log 5), `run`
(log 6), the model's own fields (log 7, 8, 9). -/
def State.reset : State where
  V := Vector.replicate 16 0
  I := 0
  pc := 0x0200
  SP := 0
  stack := Vector.replicate 16 0
  mem := []
  DT := 0
  ST := 0
  keypad := Vector.replicate 16 false
  keyReleased := none
  fb := Vector.replicate 32 (Vector.replicate 64 false)
  cycleCount := 0
  fault := none
  debt := 0
  wtimer := 0
  present := false
  tone := false
  sleeping := false
  run := true
  cfg := { targetHz := 60, unknownOpcodeFaults := false }
  inputs := []
  draws := 0
  clockReads := 0

end Sys2Proof.Machine
end

