-- ==== Sys2Proof/Machine/Ops.lean ====
section
/-! DEFINITION. The named operations: memory, the registers' accessors, the cells, the stack, and taking a fault. -/

namespace Sys2Proof.Machine

/-! ## Memory (R60 to R67) -/

/-- The font table: glyph `d` at `5*d`..`5*d+4`, top row first (R282, R283; log 16). Glyphs 0 to 7. -/
def fontLow : List Byte := [
  0xF0, 0x90, 0x90, 0x90, 0xF0,
  0x20, 0x60, 0x20, 0x20, 0x70,
  0xF0, 0x10, 0xF0, 0x80, 0xF0,
  0xF0, 0x10, 0xF0, 0x10, 0xF0,
  0x90, 0x90, 0xF0, 0x10, 0x10,
  0xF0, 0x80, 0xF0, 0x10, 0xF0,
  0xF0, 0x80, 0xF0, 0x90, 0xF0,
  0xF0, 0x10, 0x20, 0x40, 0x40]

/-- The font table, glyphs 8 to F (R283). -/
def fontHigh : List Byte := [
  0xF0, 0x90, 0xF0, 0x90, 0xF0,
  0xF0, 0x90, 0xF0, 0x10, 0xF0,
  0xF0, 0x90, 0xF0, 0x90, 0x90,
  0xE0, 0x90, 0xE0, 0x90, 0xE0,
  0xF0, 0x80, 0x80, 0x80, 0xF0,
  0xE0, 0x90, 0x90, 0x90, 0xE0,
  0xF0, 0x80, 0xF0, 0x80, 0xF0,
  0xF0, 0x80, 0xF0, 0x80, 0x80]

/-- The 80 font bytes at `0x000`..`0x04F` (R283). -/
def font : List Byte := fontLow ++ fontHigh

/-- What an address holds at reset, so what an unlisted address reads as: the font, else zero (R36, R66). -/
def Memory.initial (a : Nat) : Byte := font.getD a 0

/-- Is the address in memory: `0 <= a <= 0xFFF` (R60, R63). -/
def Memory.inRange (a : Nat) : Bool := decide (a < Config.memSize)

/-- One byte. Every use in a meaning is in range (R63); an address outside memory reads as its reset content, zero
(log 20). -/
def Memory.read (m : Memory) (a : Nat) : Byte :=
  match m with
  | [] => Memory.initial a
  | (k, b) :: rest => if k = a then b else Memory.read rest a

/-- The list with the byte at `a` made `b`, in canonical form: no entry where `b` is the reset content. -/
def Memory.insert (m : Memory) (a : Nat) (b : Byte) : Memory :=
  match m with
  | [] => if b = Memory.initial a then [] else [(a, b)]
  | (k, c) :: rest =>
    if a < k then (if b = Memory.initial a then (k, c) :: rest else (a, b) :: (k, c) :: rest)
    else if a = k then (if b = Memory.initial a then rest else (a, b) :: rest)
    else (k, c) :: Memory.insert rest a b

/-- Write one byte; outside memory nothing is written (no meaning does that: R63; log 20). -/
def Memory.write (m : Memory) (a : Nat) (b : Byte) : Memory :=
  if Memory.inRange a then Memory.insert m a b else m

/-- Every address of the list is at least `lo`, in range, rising, and holds something else than its reset content. -/
def Memory.wfFrom (lo : Nat) (m : Memory) : Bool :=
  match m with
  | [] => true
  | (k, b) :: rest =>
    decide (lo ≤ k) && Memory.inRange k && decide (b ≠ Memory.initial k) && Memory.wfFrom (k + 1) rest

/-- The canonical form of memory. -/
def Memory.wf (m : Memory) : Bool := Memory.wfFrom 0 m

/-- The big-endian word at `a` and `a + 1` (R61). -/
def Memory.readWord (m : Memory) (a : Nat) : Word := wordOfBytes (Memory.read m a) (Memory.read m (a + 1))

/-! ## Registers, stack, keys, cells -/

/-- `V[x]` (R20). -/
def State.getV (s : State) (x : Reg) : Byte := s.V[x]

/-- `V[x] <- b` (R20). -/
def State.setV (s : State) (x : Reg) (b : Byte) : State := { s with V := s.V.set x b }

/-- `I <- w` (R22). -/
def State.setI (s : State) (w : Word) : State := { s with I := w }

/-- `pc <- w` (R23). -/
def State.setPc (s : State) (w : Word) : State := { s with pc := w }

/-- `DT <- b` (R26). -/
def State.setDT (s : State) (b : Byte) : State := { s with DT := b }

/-- `ST <- b` (R26). -/
def State.setST (s : State) (b : Byte) : State := { s with ST := b }

/-- `MemRead(a, 1)` (R10). -/
def State.readByte (s : State) (a : Nat) : Byte := Memory.read s.mem a

/-- `MemWrite(a, 1, b)` (R10). -/
def State.writeByte (s : State) (a : Nat) (b : Byte) : State := { s with mem := Memory.write s.mem a b }

/-- `keypad[k]` (R27). -/
def State.getKey (s : State) (k : Key) : Bool := s.keypad[k]

/-- `keypad[k] <- held` (R27). -/
def State.setKey (s : State) (k : Key) (held : Bool) : State := { s with keypad := s.keypad.set k held }

/-- The stack entry `stack[k]` (R24). -/
def State.stackEntry (s : State) (k : Fin 16) : Word := s.stack[k]

/-- `stack[SP] <- w; SP <- SP + 1`, into the entry `k = SP` (R24, R142). -/
def State.push (s : State) (k : Fin 16) (w : Word) : State := { s with stack := s.stack.set k w, SP := s.SP + 1 }

/-- `SP <- SP - 1; pc <- w`: the popped entry stays in the array, dead (R143). -/
def State.popTo (s : State) (w : Word) : State := { s with SP := s.SP - 1, pc := w }

/-- `fb[row][col]` (R29). -/
def Framebuffer.cell (f : Framebuffer) (row : Fin 32) (col : Fin 64) : Bool := f[row][col]

/-- `fb[row][col] <- on` (R29). -/
def Framebuffer.setCell (f : Framebuffer) (row : Fin 32) (col : Fin 64) (on : Bool) : Framebuffer :=
  f.set row (f[row].set col on)

/-- The grid with every cell OFF (R221). -/
def Framebuffer.allOff : Framebuffer := Vector.replicate 32 (Vector.replicate 64 false)

/-- The grid becomes `f` and the `present` strobe is raised (R41, R221, R222). -/
def State.display (s : State) (f : Framebuffer) : State := { s with fb := f, present := true }

/-- The skip: `pc <- pc + 2` where the predicate holds (R145). -/
def State.skipIf (s : State) (p : Bool) : State := if p then s.setPc (s.pc + 2) else s

/-! ## Faults (R230 to R235) -/

/-- The code of the cause's class: 1 decode, 2 stack, 3 addressing (R230). -/
def FaultCause.code (c : FaultCause) : Nat :=
  match c with
  | .decode => 1
  | .stackOverflow => 2
  | .stackUnderflow => 2
  | .fetch => 3
  | .data => 3
  | .key => 3

/-- The sub-kind of the cause (R230). -/
def FaultCause.kind (c : FaultCause) : Option FaultKind :=
  match c with
  | .decode => none
  | .stackOverflow => some .overflow
  | .stackUnderflow => some .underflow
  | .fetch => some .fetch
  | .data => some .data
  | .key => some .key

/-- Fault entry (R232): the snapshot `S0` of the cycle's start, with the record written and `present` low (R41). -/
def enterFault (s0 : State) (r : FaultRecord) : State := { s0 with fault := some r, present := false }

/-- The snapshot `S0` seen from the execute phase: every check precedes every change (R63), so what the cycle has
changed is the fetch's `pc + 2` alone (R121; log 14). -/
def snapshot (s : State) : State := s.setPc (s.pc - 2)

/-- The fetched word seen from the execute phase: the word at the instruction's own address (R31, R121; log 14). -/
def fetchedWord (s : State) : Word := Memory.readWord s.mem (snapshot s).pc.toNat

/-- `raise` in the execute phase (R10, R232): TAKING A FAULT, the one operation every instruction's fault goes through. -/
def raiseFault (s : State) (cause : FaultCause) (faddr : Option Nat) : State :=
  enterFault (snapshot s) { cause := cause, fpc := (snapshot s).pc, fir := some (fetchedWord s), faddr := faddr }

/-- The fetch's own fault, before `pc` has advanced and with no word fetched (R120, R234). -/
def raiseFetchFault (s : State) : State :=
  enterFault s { cause := .fetch, fpc := s.pc, fir := none, faddr := some (max s.pc.toNat 0x1000) }

end Sys2Proof.Machine
end

