-- ==== Sys2Proof/Machine/Operands.lean ====
section
/-! DEFINITION. The operand forms: the one addressing mode `I + k` with its bounds check (R180, R63), the key index
(R213), the zero-extended address and offset (R94, R144), the glyph address (R183), the decimal digits (R184). -/

namespace Sys2Proof.Machine

/-- `EA(k) = I + k` on unbounded naturals (R180). -/
def State.dataAddr (s : State) (k : Nat) : Nat := s.I.toNat + k

/-- Are the `len` bytes from `I` all in memory; with no byte to touch, yes (R63). -/
def State.blockInRange (s : State) (len : Nat) : Bool := decide (len = 0) || Memory.inRange (s.dataAddr (len - 1))

/-- `AddressingFault(Data)` at the lowest address above `0xFFF` that the access would touch (R63, R234). -/
def raiseDataFault (s : State) : State := raiseFault s .data (some (max s.I.toNat 0x1000))

/-- `zext_16(nnn)` (R94, R141, R181). -/
def zextAddr (nnn : BitVec 12) : Word := nnn.setWidth 16

/-- `zext_16(b)` of a register's value (R144, R182). -/
def zextByte (b : Byte) : Word := b.setWidth 16

/-- The key a register's value names; none above 15 (R213). -/
def keyIndex (b : Byte) : Option Key := if h : b.toNat < 16 then some ⟨b.toNat, h⟩ else none

/-- `5 * (b mod 16)`, the address of a glyph (R183). -/
def glyphAddr (b : Byte) : Word := BitVec.ofNat 16 (5 * (b.toNat % 16))

/-- `v div 100` (R184). -/
def bcdHundreds (b : Byte) : Byte := BitVec.ofNat 8 (b.toNat / 100)

/-- `(v div 10) mod 10` (R184). -/
def bcdTens (b : Byte) : Byte := BitVec.ofNat 8 (b.toNat / 10 % 10)

/-- `v mod 10` (R184). -/
def bcdUnits (b : Byte) : Byte := BitVec.ofNat 8 (b.toNat % 10)

/-- Registers `V[0]`..`V[x]` in ascending order (R64, R185). -/
def regsUpTo (x : Reg) : List Nat := List.range (x.val + 1)

/-- The register a block's offset names; the offsets of `regsUpTo` are all below 16. -/
def regAt (k : Nat) : Reg := Fin.ofNat 16 k

end Sys2Proof.Machine
end

