-- ==== Sys2Proof/Machine/Cycle.lean ====
section
/-! DEFINITION. What the cycle does around the instruction (R120): the gap before it, the fetch, the end-of-execute
clear, the Timer Regulator and the Pacing Throttle. -/

namespace Sys2Proof.Machine

/-! ## The configuration (R7, R8) -/

/-- `TARGET_HZ` is a positive multiple of 60 (R7, R286). -/
def rateValid (c : EngineConfig) : Bool := decide (0 < c.targetHz) && decide (c.targetHz % 60 = 0)

/-- `TICK_DIV = TARGET_HZ div 60` (R8). -/
def tickDiv (c : EngineConfig) : Nat := c.targetHz / 60

/-- `DUTY = floor(10^9 / TARGET_HZ)` nanoseconds (R8). -/
def dutyNs (c : EngineConfig) : Nat := 1000000000 / c.targetHz

/-- `THRESHOLD`, 25 ms in nanoseconds (R8). -/
def throttleThreshold : Nat := 25000000

/-! ## The gap between two cycles (R40, R42) -/

/-- One write of the outside world. -/
def applyWrite (s : State) (w : GapWrite) : State :=
  match w with
  | .key k held => s.setKey k held
  | .release event => { s with keyReleased := event }
  | .run level => { s with run := level }

/-- A gap's writes, in order. -/
def applyWrites (ws : List GapWrite) (s : State) : State :=
  match ws with
  | [] => s
  | w :: rest => applyWrites rest (applyWrite s w)

/-- The gap before the next cycle: its writes, taken from the list of those to come; none where the list is at its end
(log 7). -/
def State.enterGap (s : State) : State :=
  match s.inputs with
  | [] => s
  | ws :: later => applyWrites ws { s with inputs := later }

/-! ## Fetch (R120, R121) -/

/-- The start of the cycle: `present` is lowered, and this state is the snapshot `S0` (R120, R41). -/
def startCycle (s : State) : State := { s with present := false }

/-- The fetch would touch an address above `0xFFF` (R121). -/
def fetchFaults (s : State) : Bool := decide (s.pc.toNat > 0x0FFE)

/-- The instruction at `pc`: two bytes, big-endian, decoded (R61, R121, R122). -/
def fetchInstr (s : State) : Instr := decode (Memory.readWord s.mem s.pc.toNat)

/-- `pc <- pc + 2`, before execute (R121). -/
def advancePc (s : State) : State := s.setPc (s.pc + 2)

/-! ## Timer Regulator (R246 to R249) -/

/-- `t - 1`, not below 0 (R247). -/
def countDown (t : Byte) : Byte := if t = 0 then 0 else t - 1

/-- The cycle count is a multiple of `TICK_DIV` (R246). -/
def ticks (s : State) : Bool := decide (s.cycleCount.toNat % tickDiv s.cfg = 0)

/-- `cycle_count + 1` modulo 2^64 (R248). -/
def countCycle (s : State) : State := { s with cycleCount := s.cycleCount + 1 }

/-- Both timers in the same cycles (R246). -/
def tickTimers (s : State) : State :=
  { s with DT := if ticks s then countDown s.DT else s.DT, ST := if ticks s then countDown s.ST else s.ST }

/-- `tone <- (ST > 0)` (R249). -/
def sampleTone (s : State) : State := { s with tone := decide (s.ST.toNat > 0) }

/-- The clear at the end of execute and the timer update (R123, R120). -/
def timerUpdate (s : State) : State := sampleTone (tickTimers (countCycle { s with keyReleased := none }))

/-! ## Pacing Throttle (R255 to R260) -/

/-- `elapsed` at the entry sample `t0` (R256). -/
def elapsedAt (s : State) (t0 : Nat) : Nat := t0 - s.wtimer.toNat

/-- The fast branch: `elapsed < DUTY` (R256). -/
def fastBranch (s : State) (t0 : Nat) : Bool := decide (elapsedAt s t0 < dutyNs s.cfg)

/-- The debt after the branch and before any sleep: the surplus added, or the slowdown spent, not below 0 (R256). -/
def debtAt (s : State) (t0 : Nat) : Nat :=
  if fastBranch s t0 then s.debt.toNat + (dutyNs s.cfg - elapsedAt s t0)
  else if s.debt.toNat ≥ elapsedAt s t0 - dutyNs s.cfg then
    s.debt.toNat - (elapsedAt s t0 - dutyNs s.cfg)
  else 0

/-- The throttle up to its sleep (R256). While a sleep lasts, `wtimer` holds the entry sample `t0` (log 11). -/
def throttleEnter (t0 : Nat) (s : State) : State :=
  { s with
    debt := BitVec.ofNat 64 (debtAt s t0)
    wtimer := BitVec.ofNat 64 t0
    sleeping := fastBranch s t0 && decide (debtAt s t0 > throttleThreshold) }

/-- The end of a sleep at the wake-up time `t1`; where there is no sleep, nothing (R256, R258). -/
def throttleWake (t1 : Nat) (s : State) : State :=
  { s with
    debt := if s.sleeping then 0 else s.debt
    wtimer := if s.sleeping then BitVec.ofNat 64 t1 else s.wtimer
    sleeping := false }

/-- A 64-bit clock reading not below `lo`: `lo` and a free advance, kept within the clock's range (R39, R257). -/
def readingFrom (lo advance : Nat) : Nat := lo + advance % (2 ^ 64 - lo)

/-- `Now()` at the throttle's entry: the last reading is `wtimer`, and the clock never runs back (R257; log 9). -/
def clockNow (s : State) : Nat := readingFrom s.wtimer.toNat (Config.clockAdvance s.clockReads)

/-- The wake-up time of `Sleep(debt)` begun at `wtimer`: not before `wtimer + debt` (R258), within the clock's 64 bits
(log 10). -/
def wakeTime (s : State) : Nat :=
  readingFrom (min (s.wtimer.toNat + s.debt.toNat) (2 ^ 64 - 1)) (Config.oversleep s.clockReads)

/-- The end of a sleep in progress. -/
def wakeUp (s : State) : State := { throttleWake (wakeTime s) s with clockReads := s.clockReads + 1 }

/-- `Throttle()`, at the end of every cycle that does not fault (R255, R256). -/
def throttle (s : State) : State := wakeUp (throttleEnter (clockNow s) s)

/-! ## The cycle's end -/

/-- After an execute phase without a fault (R120, R123). -/
def finishCycle (s : State) : State := throttle (timerUpdate s)

/-- The outcome of the cycle from that of its execute phase: after a fault nothing further runs (R232). -/
def completeCycle (o : Host.Outcome State Fault Refusal) : Host.Outcome State Fault Refusal :=
  match o with
  | .next t => .next (if t.fault.isSome then t else finishCycle t)
  | .fault r => .fault r
  | .refused r => .refused r

/-- Why no cycle can start: `run` is low (R42), or the configuration is one that does not leave reset (R286). -/
def cannotRun (s : State) : Option (Host.Outcome State Fault Refusal) :=
  if s.run = false then some (.fault .stopped)
  else if rateValid s.cfg = false then some (.refused .rateRefused)
  else none

end Sys2Proof.Machine
end

