-- ==== Sys2Proof/Machine/Flags.lean ====
section
/-! DEFINITION. The ALU's 8-bit results and flags (R160), and the order of their writes (R172). -/

namespace Sys2Proof.Machine

/-- A flag as VF holds it: 0 or 1 (R21). -/
def flagByte (p : Bool) : Byte := if p then 1 else 0

/-- `(a + b) mod 256` (R160). -/
def aluAdd (a b : Byte) : Byte := BitVec.ofNat 8 (a.toNat + b.toNat)

/-- Carry: `a + b > 255` (R160). -/
def carryOut (a b : Byte) : Bool := decide (a.toNat + b.toNat > 255)

/-- `(a - b) mod 256` (R160). -/
def aluSub (a b : Byte) : Byte := a - b

/-- Not-borrow: `a >= b` (R160). -/
def notBorrow (a b : Byte) : Bool := decide (a.toNat ≥ b.toNat)

/-- `a div 2` (R160). -/
def aluShr (a : Byte) : Byte := BitVec.ofNat 8 (a.toNat / 2)

/-- The bit shifted out to the right, `a[0]` (R160). -/
def shrOut (a : Byte) : Bool := a.getLsbD 0

/-- `(2 * a) mod 256` (R160). -/
def aluShl (a : Byte) : Byte := BitVec.ofNat 8 (2 * a.toNat)

/-- The bit shifted out to the left, `a[7]` (R160). -/
def shlOut (a : Byte) : Bool := a.getLsbD 7

/-- The result goes to `V[x]`, then the flag to `V[15]`: with `x = 15` the flag is what stays (R172). -/
def State.setResultFlag (s : State) (x : Reg) (result : Byte) (flag : Bool) : State :=
  (s.setV x result).setV vf (flagByte flag)

end Sys2Proof.Machine
end

