-- ==== Sys2Proof/Machine/Alu.lean ====
section
/-! DEFINITION. Immediate and register arithmetic (R160 to R176). Operands are read before anything is written (R176). -/

namespace Sys2Proof.Machine

/-- `LoadIm(x, nn)` (R161). -/
def execLoadIm (x : Reg) (nn : Byte) (s : State) : Host.Outcome State Fault Refusal :=
  .next (s.setV x nn)

/-- `AddIm(x, nn)` (R162): wraps, no flag. -/
def execAddIm (x : Reg) (nn : Byte) (s : State) : Host.Outcome State Fault Refusal :=
  .next (s.setV x (aluAdd (s.getV x) nn))

/-- `Move(x, y)` (R163). -/
def execMove (x y : Reg) (s : State) : Host.Outcome State Fault Refusal :=
  .next (s.setV x (s.getV y))

/-- `Or(x, y)` (R164): VF is left alone. -/
def execOr (x y : Reg) (s : State) : Host.Outcome State Fault Refusal :=
  .next (s.setV x (s.getV x ||| s.getV y))

/-- `And(x, y)` (R165): VF is left alone. -/
def execAnd (x y : Reg) (s : State) : Host.Outcome State Fault Refusal :=
  .next (s.setV x (s.getV x &&& s.getV y))

/-- `Xor(x, y)` (R166): VF is left alone. -/
def execXor (x y : Reg) (s : State) : Host.Outcome State Fault Refusal :=
  .next (s.setV x (s.getV x ^^^ s.getV y))

/-- `Add(x, y)` (R167). -/
def execAdd (x y : Reg) (s : State) : Host.Outcome State Fault Refusal :=
  .next (s.setResultFlag x (aluAdd (s.getV x) (s.getV y)) (carryOut (s.getV x) (s.getV y)))

/-- `Sub(x, y)` (R168). -/
def execSub (x y : Reg) (s : State) : Host.Outcome State Fault Refusal :=
  .next (s.setResultFlag x (aluSub (s.getV x) (s.getV y)) (notBorrow (s.getV x) (s.getV y)))

/-- `SubN(x, y)` (R169): the operands the other way round, the destination still `V[x]`. -/
def execSubN (x y : Reg) (s : State) : Host.Outcome State Fault Refusal :=
  .next (s.setResultFlag x (aluSub (s.getV y) (s.getV x)) (notBorrow (s.getV y) (s.getV x)))

/-- `Shr(x)` (R170): in place. -/
def execShr (x : Reg) (s : State) : Host.Outcome State Fault Refusal :=
  .next (s.setResultFlag x (aluShr (s.getV x)) (shrOut (s.getV x)))

/-- `Shl(x)` (R171): in place. -/
def execShl (x : Reg) (s : State) : Host.Outcome State Fault Refusal :=
  .next (s.setResultFlag x (aluShl (s.getV x)) (shlOut (s.getV x)))

/-- `Rand(x, nn)` with the byte `r` drawn (R175). -/
def randWith (r : Byte) (x : Reg) (nn : Byte) (s : State) : State := s.setV x (r &&& nn)

/-- `Rand(x, nn)` (R175): the byte is a free value, a fresh one for each draw (log 8). -/
def execRand (x : Reg) (nn : Byte) (s : State) : Host.Outcome State Fault Refusal :=
  .next { randWith (Config.randByte s.draws) x nn s with draws := s.draws + 1 }

end Sys2Proof.Machine
end

