-- ==== Sys2Proof/Machine/Control.lean ====
section
/-! DEFINITION. The control-flow instructions (R140 to R149). No target is checked: a bad one faults at the next fetch. -/

namespace Sys2Proof.Machine

/-- `Jump(nnn)` (R141). -/
def execJump (nnn : BitVec 12) (s : State) : Host.Outcome State Fault Refusal :=
  .next (s.setPc (zextAddr nnn))

/-- `Call(nnn)` (R142): the post-fetch `pc` is pushed; the 17th nested call faults. -/
def execCall (nnn : BitVec 12) (s : State) : Host.Outcome State Fault Refusal :=
  .next (if h : s.SP.toNat < 16 then (s.push ⟨s.SP.toNat, h⟩ s.pc).setPc (zextAddr nnn)
    else raiseFault s .stackOverflow none)

/-- `Return` (R143). Above the legal range of `SP` the entry does not exist (log 13). -/
def execRet (s : State) : Host.Outcome State Fault Refusal :=
  if s.SP.toNat = 0 then .next (raiseFault s .stackUnderflow none)
  else if h : s.SP.toNat - 1 < 16 then .next (s.popTo (s.stackEntry ⟨s.SP.toNat - 1, h⟩))
  else .fault .stackEntryAbsent

/-- `JumpOff(nnn)` (R144): always `V[0]`. -/
def execJumpOff (nnn : BitVec 12) (s : State) : Host.Outcome State Fault Refusal :=
  .next (s.setPc (zextAddr nnn + zextByte (s.getV 0)))

/-- `SkipEqIm(x, nn)` (R146). -/
def execSkipEqIm (x : Reg) (nn : Byte) (s : State) : Host.Outcome State Fault Refusal :=
  .next (s.skipIf (s.getV x == nn))

/-- `SkipNeIm(x, nn)` (R147). -/
def execSkipNeIm (x : Reg) (nn : Byte) (s : State) : Host.Outcome State Fault Refusal :=
  .next (s.skipIf (s.getV x != nn))

/-- `SkipEq(x, y)` (R148). -/
def execSkipEq (x y : Reg) (s : State) : Host.Outcome State Fault Refusal :=
  .next (s.skipIf (s.getV x == s.getV y))

/-- `SkipNe(x, y)` (R149). -/
def execSkipNe (x y : Reg) (s : State) : Host.Outcome State Fault Refusal :=
  .next (s.skipIf (s.getV x != s.getV y))

end Sys2Proof.Machine
end

