-- ==== Sys2Proof/Machine/Drawing.lean ====
section
/-! DEFINITION. The drawing instructions (R220 to R224). The loops are the spec's: rows ascending, columns ascending. -/

namespace Sys2Proof.Machine

/-- What `Draw`'s loops carry: the grid, and whether a collision has happened. `V[15] <- 1` is the one register write of
the loops and no coordinate is read again (R224), so the flag stands for it. -/
structure Canvas where
  fb : Framebuffer
  hit : Bool
  deriving DecidableEq, Repr

/-- `(x0 + c) mod 64` (R222). -/
def drawCol (x0 : Byte) (c : Nat) : Fin 64 := ⟨(x0.toNat + c) % 64, Nat.mod_lt _ (by decide)⟩

/-- `(y0 + r) mod 32` (R222). -/
def drawRow (y0 : Byte) (r : Nat) : Fin 32 := ⟨(y0.toNat + r) % 32, Nat.mod_lt _ (by decide)⟩

/-- Sprite bit `b[7 - c]`: bit 7 is the leftmost cell (R223). -/
def spriteBit (b : Byte) (c : Nat) : Bool := b.getLsbD (7 - c)

/-- One sprite bit on one cell: a 0 leaves it alone, a 1 flips it, and flipping an ON cell is a collision (R222). -/
def drawCell (bit : Bool) (row : Fin 32) (col : Fin 64) (k : Canvas) : Canvas :=
  if bit then
    { fb := Framebuffer.setCell k.fb row col (!Framebuffer.cell k.fb row col), hit := k.hit || Framebuffer.cell k.fb row col }
  else k

/-- The columns of one sprite row, in the order of the list (R222). -/
def drawCols (b : Byte) (x0 : Byte) (row : Fin 32) (cols : List Nat) (k : Canvas) : Canvas :=
  match cols with
  | [] => k
  | c :: rest => drawCols b x0 row rest (drawCell (spriteBit b c) row (drawCol x0 c) k)

/-- The sprite rows, in the order of the list: row `r` is the byte at `I + r` (R222). -/
def drawRows (s : State) (x0 y0 : Byte) (rows : List Nat) (k : Canvas) : Canvas :=
  match rows with
  | [] => k
  | r :: rest => drawRows s x0 y0 rest (drawCols (s.readByte (s.dataAddr r)) x0 (drawRow y0 r) (List.range 8) k)

/-- `V[15] <- 1` on a collision; without one VF is left alone, never cleared (R222, D13). -/
def State.setCollision (s : State) (hit : Bool) : State := if hit then s.setV vf 1 else s

/-- `Clear` (R221). -/
def execClear (s : State) : Host.Outcome State Fault Refusal :=
  .next (s.display Framebuffer.allOff)

/-- The grid and the collision after the sprite of `n` rows at the column `x0` and the row `y0` (R222). -/
def drawSprite (s : State) (x0 y0 : Byte) (n : Nat) : Canvas :=
  drawRows s x0 y0 (List.range n) { fb := s.fb, hit := false }

/-- `Draw(x, y, n)` (R222): the coordinates are read once (R224), the bounds check precedes every change (R63). -/
def execDraw (x y : Reg) (n : Nat) (s : State) : Host.Outcome State Fault Refusal :=
  .next (if s.blockInRange n then
      (s.display (drawSprite s (s.getV x) (s.getV y) n).fb).setCollision (drawSprite s (s.getV x) (s.getV y) n).hit
    else raiseDataFault s)

end Sys2Proof.Machine
end

