-- ==== Sys2Proof/Machine/Index.lean ====
section
/-! DEFINITION. Memory and index-register instructions (R180 to R187). The bounds check comes before every change (R63);
`I` is left where it was (R187). -/

namespace Sys2Proof.Machine

/-- `LoadI(nnn)` (R181). -/
def execLoadI (nnn : BitVec 12) (s : State) : Host.Outcome State Fault Refusal :=
  .next (s.setI (zextAddr nnn))

/-- `AddI(x)` (R182): modulo 65536, no flag. -/
def execAddI (x : Reg) (s : State) : Host.Outcome State Fault Refusal :=
  .next (s.setI (s.I + zextByte (s.getV x)))

/-- `SetSpriteAddr(x)` (R183): an address only; no memory is read. -/
def execSetSpriteAddr (x : Reg) (s : State) : Host.Outcome State Fault Refusal :=
  .next (s.setI (glyphAddr (s.getV x)))

/-- Hundreds, tens and units to `I`, `I + 1`, `I + 2` (R184). -/
def storeDigits (s : State) (b : Byte) : State :=
  ((s.writeByte (s.dataAddr 0) (bcdHundreds b)).writeByte (s.dataAddr 1) (bcdTens b)).writeByte (s.dataAddr 2)
    (bcdUnits b)

/-- `StoreBcd(x)` (R184). -/
def execStoreBcd (x : Reg) (s : State) : Host.Outcome State Fault Refusal :=
  .next (if s.blockInRange 3 then storeDigits s (s.getV x) else raiseDataFault s)

/-- `MemWrite(I + k, 1, V[k])` for each offset of the list, in its order (R185). -/
def storeBlock (offsets : List Nat) (s : State) : State :=
  match offsets with
  | [] => s
  | k :: rest => storeBlock rest (s.writeByte (s.dataAddr k) (s.getV (regAt k)))

/-- `StoreRegs(x)` (R185). -/
def execStoreRegs (x : Reg) (s : State) : Host.Outcome State Fault Refusal :=
  .next (if s.blockInRange (x.val + 1) then storeBlock (regsUpTo x) s else raiseDataFault s)

/-- `V[k] <- MemRead(I + k, 1)` for each offset of the list, in its order (R186). -/
def loadBlock (offsets : List Nat) (s : State) : State :=
  match offsets with
  | [] => s
  | k :: rest => loadBlock rest (s.setV (regAt k) (s.readByte (s.dataAddr k)))

/-- `LoadRegs(x)` (R186). -/
def execLoadRegs (x : Reg) (s : State) : Host.Outcome State Fault Refusal :=
  .next (if s.blockInRange (x.val + 1) then loadBlock (regsUpTo x) s else raiseDataFault s)

end Sys2Proof.Machine
end

