-- ==== Sys2Proof/Machine/Input.lean ====
section
/-! DEFINITION. The input instructions (R210 to R214). -/

namespace Sys2Proof.Machine

/-- The skip on a key's flag, `wanted` the value that skips; a key index above 15 faults (R210, R211, R213). -/
def skipOnKey (s : State) (b : Byte) (wanted : Bool) : State :=
  match keyIndex b with
  | some k => s.skipIf (s.getKey k == wanted)
  | none => raiseFault s .key (some b.toNat)

/-- `SkipPressed(x)` (R210). -/
def execSkipPressed (x : Reg) (s : State) : Host.Outcome State Fault Refusal :=
  .next (skipOnKey s (s.getV x) true)

/-- `SkipNotPressed(x)` (R211). -/
def execSkipNotPressed (x : Reg) (s : State) : Host.Outcome State Fault Refusal :=
  .next (skipOnKey s (s.getV x) false)

/-- A key number as a register's value, `zext_8(k)` (R212). -/
def keyByte (k : Key) : Byte := BitVec.ofNat 8 k.val

/-- `WaitKeypress(x)` (R212): a release event completes it; without one `pc` goes back to the instruction. The event
itself is cleared by the cycle, as after every instruction (R123). -/
def execWaitKeypress (x : Reg) (s : State) : Host.Outcome State Fault Refusal :=
  .next (match s.keyReleased with
    | some k => (s.setKey k false).setV x (keyByte k)
    | none => s.setPc (s.pc - 2))

end Sys2Proof.Machine
end

