-- ==== Sys2Proof/Machine/Nop.lean ====
section
/-! DEFINITION. `Nop` and the unknown-opcode policy (R124, R125). In this and every family file a meaning is the execute
phase alone: `pc` is already the instruction's address plus 2 (R121), and the rest of the cycle is Machine/Cycle.lean's. -/

namespace Sys2Proof.Machine

/-- `Nop` (R124): nothing, or `DecodeFault` under the policy bit. -/
def execNop (s : State) : Host.Outcome State Fault Refusal :=
  .next (if s.cfg.unknownOpcodeFaults then raiseFault s .decode none else s)

end Sys2Proof.Machine
end

