-- ==== Sys2Proof/Machine/Timers.lean ====
section
/-! DEFINITION. The timer instructions (R200 to R203). The countdown is the cycle's (Machine/Cycle.lean). -/

namespace Sys2Proof.Machine

/-- `LoadFromDelayTimer(x)` (R201). -/
def execLoadFromDelayTimer (x : Reg) (s : State) : Host.Outcome State Fault Refusal :=
  .next (s.setV x s.DT)

/-- `LoadDelayTimer(x)` (R202). -/
def execLoadDelayTimer (x : Reg) (s : State) : Host.Outcome State Fault Refusal :=
  .next (s.setDT (s.getV x))

/-- `LoadSoundTimer(x)` (R203). -/
def execLoadSoundTimer (x : Reg) (s : State) : Host.Outcome State Fault Refusal :=
  .next (s.setST (s.getV x))

end Sys2Proof.Machine
end

