-- ==== Sys2Proof/Machine/Dispatch.lean ====
section
/-! DEFINITION. The execute phase: one arm per tag (R122). -/

namespace Sys2Proof.Machine

def exec (i : Instr) (s : State) : Host.Outcome State Fault Refusal :=
  match i with
  | .nop => Sys2Proof.Machine.execNop s
  | .clear => Sys2Proof.Machine.execClear s
  | .ret => Sys2Proof.Machine.execRet s
  | .jump nnn => Sys2Proof.Machine.execJump nnn s
  | .call nnn => Sys2Proof.Machine.execCall nnn s
  | .skipEqIm x nn => Sys2Proof.Machine.execSkipEqIm x nn s
  | .skipNeIm x nn => Sys2Proof.Machine.execSkipNeIm x nn s
  | .skipEq x y => Sys2Proof.Machine.execSkipEq x y s
  | .loadIm x nn => Sys2Proof.Machine.execLoadIm x nn s
  | .addIm x nn => Sys2Proof.Machine.execAddIm x nn s
  | .move x y => Sys2Proof.Machine.execMove x y s
  | .or x y => Sys2Proof.Machine.execOr x y s
  | .and x y => Sys2Proof.Machine.execAnd x y s
  | .xor x y => Sys2Proof.Machine.execXor x y s
  | .add x y => Sys2Proof.Machine.execAdd x y s
  | .sub x y => Sys2Proof.Machine.execSub x y s
  | .shr x => Sys2Proof.Machine.execShr x s
  | .subN x y => Sys2Proof.Machine.execSubN x y s
  | .shl x => Sys2Proof.Machine.execShl x s
  | .skipNe x y => Sys2Proof.Machine.execSkipNe x y s
  | .loadI nnn => Sys2Proof.Machine.execLoadI nnn s
  | .jumpOff nnn => Sys2Proof.Machine.execJumpOff nnn s
  | .rand x nn => Sys2Proof.Machine.execRand x nn s
  | .draw x y n => Sys2Proof.Machine.execDraw x y n s
  | .skipPressed x => Sys2Proof.Machine.execSkipPressed x s
  | .skipNotPressed x => Sys2Proof.Machine.execSkipNotPressed x s
  | .loadFromDelayTimer x => Sys2Proof.Machine.execLoadFromDelayTimer x s
  | .waitKeypress x => Sys2Proof.Machine.execWaitKeypress x s
  | .loadDelayTimer x => Sys2Proof.Machine.execLoadDelayTimer x s
  | .loadSoundTimer x => Sys2Proof.Machine.execLoadSoundTimer x s
  | .addI x => Sys2Proof.Machine.execAddI x s
  | .setSpriteAddr x => Sys2Proof.Machine.execSetSpriteAddr x s
  | .storeBcd x => Sys2Proof.Machine.execStoreBcd x s
  | .storeRegs x => Sys2Proof.Machine.execStoreRegs x s
  | .loadRegs x => Sys2Proof.Machine.execLoadRegs x s

end Sys2Proof.Machine
end

