-- ==== Sys2Proof/Machine/Step.lean ====
section
/-! DEFINITION. One step of the engine is one cycle (R120); and the placing of an instruction where `step` fetches. -/

namespace Sys2Proof.Machine

/-- One cycle (R120), after the outside world's writes of the gap before it (R40). A halted engine has no cycle (R126),
nor has one whose `run` is low (R42) or whose configuration does not leave reset (R286). While a sleep is in progress no
cycle starts (R258): the step ends the sleep. The fetch check comes first (R235). -/
def step (s : State) : Host.Outcome State Fault Refusal :=
  if s.fault.isSome then .fault .halted
  else
    match cannotRun s.enterGap with
    | some o => o
    | none =>
      if s.enterGap.sleeping then .next (wakeUp s.enterGap)
      else if fetchFaults (startCycle s.enterGap) then .next (raiseFetchFault (startCycle s.enterGap))
      else completeCycle (exec (fetchInstr (startCycle s.enterGap)) (advancePc (startCycle s.enterGap)))

/-- The instruction whose bits are `w`, as spec/opcode_table.json numbers them, stored big-endian at `pc`, where `step`
fetches (R61, R121). -/
def State.withFetchWord (s : State) (nbits w : Nat) : State :=
  (s.writeByte s.pc.toNat ((tableWord nbits w).extractLsb 15 8)).writeByte (s.pc.toNat + 1)
    ((tableWord nbits w).extractLsb 7 0)

end Sys2Proof.Machine
end

