-- ==== Sys2Proof/Machine/Boot.lean ====
section
/-! DEFINITION. Reset and the boot interface (R280 to R286): from any state, with any configuration, any ROM image and
any clock. -/

namespace Sys2Proof.Machine

/-- The longest ROM image, `0x1000 - 0x200` bytes (R284). -/
def romMax : Nat := 3584

/-- Bytes copied verbatim, the first to address `a` (R284). -/
def copyBytes (bytes : List Byte) (a : Nat) (m : Memory) : Memory :=
  match bytes with
  | [] => m
  | b :: rest => copyBytes rest (a + 1) (Memory.write m a b)

/-- `reset` with its latched inputs: the configuration is checked (R286), the ROM's length too (R284); then every state
element has the value of R36, whatever it held, the image lies at `0x200` and `wtimer` is the clock's reading (R281).
It takes no state: reset forgets all of it (R280). -/
def boot (cfg : EngineConfig) (rom : List Byte) (now : BitVec 64) : Host.Outcome State Fault Refusal :=
  if rateValid cfg = false then .refused .rateRefused
  else if rom.length > romMax then .refused .romTooLong
  else .next { State.reset with cfg := cfg, mem := copyBytes rom 0x200 [], wtimer := now }

end Sys2Proof.Machine
end

