-- ==== Sys2Proof/Safety.lean ====
section
/-! DEFINITION. The terms the claims are stated in: when a cycle can run, what an instruction may touch (R37), frames,
and the invariants of the machine. -/

namespace Sys2Proof.Machine

/-! ## When a cycle runs -/

/-- A cycle runs from this state: no fault record (R126), `run` high (R42), a configuration that leaves reset (R286), no
sleep in progress (R258). -/
def State.ready (s : State) : Bool := s.fault.isNone && s.run && rateValid s.cfg && !s.sleeping

/-- The next states of an outcome, changed by `f`; a stop is left as it is. -/
def mapNext (f : State → State) (o : Host.Outcome State Fault Refusal) : Host.Outcome State Fault Refusal :=
  match o with
  | .next t => .next (f t)
  | .fault r => .fault r
  | .refused r => .refused r

/-! ## Frames -/

/-- Every byte of memory reads as before. -/
def SameMemory (s t : State) : Prop := ∀ a : Nat, t.readByte a = s.readByte a

/-- Nothing but general registers has changed, and of those only the ones named. -/
def OnlyRegs (dst : List Reg) (s t : State) : Prop :=
  t = { s with V := t.V } ∧ (∀ r : Reg, r ∉ dst → t.getV r = s.getV r) ∧ SameMemory s t

/-- Nothing but `pc` has changed. -/
def OnlyPc (s t : State) : Prop := t = { s with pc := t.pc } ∧ SameMemory s t

/-- Nothing but `I` has changed. -/
def OnlyI (s t : State) : Prop := t = { s with I := t.I } ∧ SameMemory s t

/-- Nothing but memory has changed, and of memory only the `len` bytes from `base`. -/
def OnlyBytes (base len : Nat) (s t : State) : Prop :=
  t = { s with mem := t.mem } ∧ ∀ a : Nat, (a < base ∨ base + len ≤ a) → t.readByte a = s.readByte a

/-- The state a fault of the execute phase leaves, written out: the cycle's start (`pc` two back, `present` low) with
the record of R234 (R232). -/
def FaultedFrom (s : State) (cause : FaultCause) (faddr : Option Nat) : State :=
  { s with
    pc := s.pc - 2
    present := false
    fault := some {
      cause := cause
      fpc := s.pc - 2
      fir := some (wordOfBytes (s.readByte (s.pc - 2).toNat) (s.readByte ((s.pc - 2).toNat + 1)))
      faddr := faddr } }

/-! ## The access table (R37): what each tag may write -/

/-- The columns of R37 that an instruction may write; `key_released` is in none of them, since the cycle clears it. -/
inductive Element where
  | V (r : Reg)
  | I
  | pc
  | stack
  | mem
  | DT
  | ST
  | keypad
  | fb
  deriving DecidableEq, Repr

/-- The row of R37: what the tag may write, beyond the fetch's `pc + 2`. -/
def writes (i : Instr) : List Element :=
  match i with
  | .nop => []
  | .clear => [.fb]
  | .ret => [.pc, .stack]
  | .jump _ => [.pc]
  | .call _ => [.pc, .stack]
  | .skipEqIm _ _ => [.pc]
  | .skipNeIm _ _ => [.pc]
  | .skipEq _ _ => [.pc]
  | .loadIm x _ => [.V x]
  | .addIm x _ => [.V x]
  | .move x _ => [.V x]
  | .or x _ => [.V x]
  | .and x _ => [.V x]
  | .xor x _ => [.V x]
  | .add x _ => [.V x, .V vf]
  | .sub x _ => [.V x, .V vf]
  | .shr x => [.V x, .V vf]
  | .subN x _ => [.V x, .V vf]
  | .shl x => [.V x, .V vf]
  | .skipNe _ _ => [.pc]
  | .loadI _ => [.I]
  | .jumpOff _ => [.pc]
  | .rand x _ => [.V x]
  | .draw _ _ _ => [.V vf, .fb]
  | .skipPressed _ => [.pc]
  | .skipNotPressed _ => [.pc]
  | .loadFromDelayTimer x => [.V x]
  | .waitKeypress x => [.V x, .pc, .keypad]
  | .loadDelayTimer _ => [.DT]
  | .loadSoundTimer _ => [.ST]
  | .addI _ => [.I]
  | .setSpriteAddr _ => [.I]
  | .storeBcd _ => [.mem]
  | .storeRegs _ => [.mem]
  | .loadRegs x => (List.finRange 16).filterMap (fun r => if r ≤ x then some (.V r) else none)

/-- The element is the same in both states. -/
def Unchanged (e : Element) (s t : State) : Prop :=
  match e with
  | .V r => t.getV r = s.getV r
  | .I => t.I = s.I
  | .pc => t.pc = s.pc
  | .stack => t.SP = s.SP ∧ t.stack = s.stack
  | .mem => SameMemory s t
  | .DT => t.DT = s.DT
  | .ST => t.ST = s.ST
  | .keypad => t.keypad = s.keypad
  | .fb => t.fb = s.fb

/-! ## Drawing in closed form -/

/-- The sprite's bit on a cell: the cell is `(col - x0) mod 64` columns and `(row - y0) mod 32` rows from the sprite's
top-left one, and both axes wrap (R222, R223). -/
def drawnBit (s : State) (x0 y0 : Byte) (n : Nat) (row : Fin 32) (col : Fin 64) : Bool :=
  decide ((row.val + 32 - y0.toNat % 32) % 32 < n) && decide ((col.val + 64 - x0.toNat % 64) % 64 < 8) &&
    (s.readByte (s.I.toNat + (row.val + 32 - y0.toNat % 32) % 32)).getLsbD (7 - (col.val + 64 - x0.toNat % 64) % 64)

/-! ## Invariants -/

/-- Memory is in canonical form: every byte of 4096 has one representation (R25, R60). -/
def MemoryCanonical (s : State) : Prop := Memory.wf s.mem = true

/-- `SP` is in its legal range, the live entries are addresses a `Call` can push, and `pc` is one a rule can produce
(R23, R24, R143). -/
def StackAndPcLegal (s : State) : Prop :=
  s.SP.toNat ≤ 16 ∧ s.pc.toNat ≤ 0x10FE ∧ ∀ k : Fin 16, k.val < s.SP.toNat → (s.stackEntry k).toNat ≤ 0x1000

/-- `0 <= debt <= THRESHOLD` between calls of the throttle (R259). -/
def DebtBounded (s : State) : Prop := s.debt.toNat ≤ throttleThreshold

/-- The tone output says whether the sound timer runs (R249). -/
def ToneSampled (s : State) : Prop := s.tone = decide (s.ST.toNat > 0)

/-- No sleep is in progress between cycles (R41, R258). -/
def Awake (s : State) : Prop := s.sleeping = false

/-- The throttle's part of the state erased (R260). -/
def eraseThrottle (s : State) : State := { s with debt := 0, wtimer := 0, clockReads := 0 }

end Sys2Proof.Machine
end

