-- ==== Sys2Proof/Certificates/Slice0/Obligations.lean ====
section
/-! DEFINITION. The statements for the provers. Each docstring names the rules it formalises; where a clause rests on a
choice of the spec's own or of the model's, it says so. Where a statement of an instruction's rule repeats the rule's
encoding, that pattern is the spec's general knowledge (R90, log 15). -/

open Sys2Proof Sys2Proof.Machine

/-! ## Encoding -/

/-- Decoding the word of a well-formed instruction gives the instruction back, with every operand at every value its
field admits (R92 to R95; the patterns are the spec's general knowledge, R90, log 15). -/
def Obligations.DecodeOfEncode : Prop := ∀ i : Instr, i.wellFormed = true → decode (encode i) = i

/-- The decoder by keying structure (R96 to R100) and the decode table read row by row (R95) agree on all 65536 words,
and no word matches two rows (R95: "the rows do not overlap, so order does not matter"). -/
def Obligations.DecoderAgreesWithTable : Prop :=
  (∀ w : Word, decode w = decodeByTable w) ∧
    ∀ (w : Word) (j k : Nat) (rj rk : TableRow), tableRows[j]? = some rj → tableRows[k]? = some rk →
      rowMatches rj w = true → rowMatches rk w = true → j = k

/-- The words that decode to `Nop` are exactly those of the six families of the Nop space (R98 to R101; families 5 and 9
by the spec's decision D4, family 0 by D5). -/
def Obligations.NopSpace : Prop :=
  ∀ w : Word, decode w = .nop ↔
    ((w.toNat / 4096 = 0x0 ∧ w.toNat ≠ 0x00E0 ∧ w.toNat ≠ 0x00EE) ∨
      (w.toNat / 4096 = 0x5 ∧ w.toNat % 16 ≠ 0) ∨
      (w.toNat / 4096 = 0x8 ∧ ((0x8 ≤ w.toNat % 16 ∧ w.toNat % 16 ≤ 0xD) ∨ w.toNat % 16 = 0xF)) ∨
      (w.toNat / 4096 = 0x9 ∧ w.toNat % 16 ≠ 0) ∨
      (w.toNat / 4096 = 0xE ∧ w.toNat % 256 ∉ [0x9E, 0xA1]) ∨
      (w.toNat / 4096 = 0xF ∧ w.toNat % 256 ∉ [0x07, 0x0A, 0x15, 0x18, 0x1E, 0x29, 0x33, 0x55, 0x65]))

/-- Every word decodes to a well-formed instruction (R95: the decoder is total), and encoding what a legal word decodes
to gives the word back, but for the ignored `y` nibble of `Shr` and `Shl`, which is encoded as 0 (R104; the 0 is the
model's choice, log 19). -/
def Obligations.EncodeOfDecode : Prop :=
  (∀ w : Word, (decode w).wellFormed = true) ∧
    ∀ w : Word, decode w ≠ .nop →
      (encode (decode w)).toNat =
        if w.toNat / 4096 = 0x8 ∧ (w.toNat % 16 = 0x6 ∨ w.toNat % 16 = 0xE) then w.toNat / 256 * 256 + w.toNat % 16
        else w.toNat

/-- R104: `Shr` and `Shl` are matched for every `y`, the tag carries `x` only, and `0x8126` and `0x81F6` are both
`Shr(1)`. -/
def Obligations.ShiftWordsIgnoreY : Prop :=
  (∀ (x y : Reg), decode (encodeXyn 0x8 x y 0x6) = .shr x ∧ decode (encodeXyn 0x8 x y 0xE) = .shl x) ∧
    decode 0x8126 = .shr 1 ∧ decode 0x81F6 = .shr 1

/-- Words written out from the patterns of R95, one or more for each of its 34 rows and for `Nop`, decode to the
instructions they stand for (95_test_vectors.md 2.1). -/
def Obligations.WrittenWordsDecode : Prop :=
  decode 0x0000 = .nop ∧ decode 0x00E0 = .clear ∧ decode 0x00EE = .ret ∧ decode 0x10E0 = .jump 0x0E0 ∧
    decode 0x2FFF = .call 0xFFF ∧ decode 0x3A42 = .skipEqIm 10 0x42 ∧ decode 0x4A42 = .skipNeIm 10 0x42 ∧
    decode 0x5AB0 = .skipEq 10 11 ∧ decode 0x6CFF = .loadIm 12 0xFF ∧ decode 0x7C01 = .addIm 12 0x01 ∧
    decode 0x8AB0 = .move 10 11 ∧ decode 0x8AB1 = .or 10 11 ∧ decode 0x8AB2 = .and 10 11 ∧
    decode 0x8AB3 = .xor 10 11 ∧ decode 0x8AB4 = .add 10 11 ∧ decode 0x8AB5 = .sub 10 11 ∧
    decode 0x8AB6 = .shr 10 ∧ decode 0x8AB7 = .subN 10 11 ∧ decode 0x8ABE = .shl 10 ∧
    decode 0x9AB0 = .skipNe 10 11 ∧ decode 0xA123 = .loadI 0x123 ∧ decode 0xB300 = .jumpOff 0x300 ∧
    decode 0xC1F0 = .rand 1 0xF0 ∧ decode 0xD015 = .draw 0 1 5 ∧ decode 0xE19E = .skipPressed 1 ∧
    decode 0xE1A1 = .skipNotPressed 1 ∧ decode 0xF107 = .loadFromDelayTimer 1 ∧ decode 0xF10A = .waitKeypress 1 ∧
    decode 0xF115 = .loadDelayTimer 1 ∧ decode 0xF118 = .loadSoundTimer 1 ∧ decode 0xF11E = .addI 1 ∧
    decode 0xF129 = .setSpriteAddr 1 ∧ decode 0xF133 = .storeBcd 1 ∧ decode 0xF155 = .storeRegs 1 ∧
    decode 0xF165 = .loadRegs 1 ∧ decode 0x5AB1 = .nop ∧ decode 0xF1FF = .nop

/-- Two bytes stored at `pc` and `pc + 1` are what the fetch decodes, the first as the high byte: stores are seen by the
next fetch, big-endian (R61, R71). -/
def Obligations.StoredWordIsFetched : Prop :=
  ∀ (s : State) (hi lo : Byte), MemoryCanonical s → s.pc.toNat ≤ 0x0FFE →
    fetchInstr ((s.writeByte s.pc.toNat hi).writeByte (s.pc.toNat + 1) lo)
      = decode (BitVec.ofNat 16 (hi.toNat * 256 + lo.toNat))

/-! ## Reset and boot -/

/-- What reset leaves, for every configuration that is accepted, every ROM image that fits and every clock reading
(R36, R281, R284; the values beyond the source's three are the spec's decision D21). -/
def Obligations.BootSetsEveryElement : Prop :=
  ∀ (cfg : EngineConfig) (rom : List Byte) (now : BitVec 64), 0 < cfg.targetHz → cfg.targetHz % 60 = 0 →
    rom.length ≤ 3584 → ∃ t : State, boot cfg rom now = .next t ∧
      (∀ r : Reg, t.getV r = 0) ∧ t.I = 0 ∧ t.pc = 0x0200 ∧ t.SP = 0 ∧ (∀ k : Fin 16, t.stackEntry k = 0) ∧
      t.DT = 0 ∧ t.ST = 0 ∧ (∀ k : Key, t.getKey k = false) ∧ t.keyReleased = none ∧
      (∀ (row : Fin 32) (col : Fin 64), Framebuffer.cell t.fb row col = false) ∧ t.cycleCount = 0 ∧ t.fault = none ∧
      t.debt = 0 ∧ t.wtimer = now ∧ t.tone = false ∧ t.present = false ∧ t.sleeping = false ∧ t.cfg = cfg ∧
      (∀ a : Nat, a < 80 → t.readByte a = font.getD a 0) ∧
      (∀ a : Nat, 0x050 ≤ a → a < 0x200 → t.readByte a = 0) ∧
      (∀ (j : Nat) (h : j < rom.length), t.readByte (0x200 + j) = rom[j]) ∧
      (∀ a : Nat, 0x200 + rom.length ≤ a → a ≤ 0xFFF → t.readByte a = 0)

/-- A rate that is no positive multiple of 60 is refused at reset, and so is an image longer than 3584 bytes (R284 by
the spec's decision D29, R286 by D23). -/
def Obligations.BootRefusals : Prop :=
  ∀ (cfg : EngineConfig) (rom : List Byte) (now : BitVec 64),
    (¬(0 < cfg.targetHz ∧ cfg.targetHz % 60 = 0) → boot cfg rom now = .refused .rateRefused) ∧
      (0 < cfg.targetHz → cfg.targetHz % 60 = 0 → 3584 < rom.length → boot cfg rom now = .refused .romTooLong)

/-- The state after reset meets every invariant stated below and is ready to run a cycle: State.reset (its configuration
is the model's choice, log 1, 2), and every state `boot` answers, whatever the configuration, the ROM image and the clock
reading (R36, R281, R284, R286, R259, R249, R24). -/
def Obligations.ResetMeetsInvariants : Prop :=
  (MemoryCanonical State.reset ∧ StackAndPcLegal State.reset ∧ DebtBounded State.reset ∧ ToneSampled State.reset ∧
    Awake State.reset ∧ State.reset.ready = true) ∧
    ∀ (cfg : EngineConfig) (rom : List Byte) (now : BitVec 64) (t : State), boot cfg rom now = .next t →
      MemoryCanonical t ∧ StackAndPcLegal t ∧ DebtBounded t ∧ ToneSampled t ∧ Awake t ∧ t.ready = true

/-! ## The cycle -/

/-- A step runs the instruction whose bytes lie at `pc`, after the gap's writes, with `present` lowered and `pc` past
the word; what follows the instruction is the cycle's end, or nothing where it has faulted (R120, R121, R61, R123,
R232). -/
def Obligations.StepRunsDecodedInstruction : Prop :=
  (∀ s : State, s.enterGap.ready = true → s.pc.toNat ≤ 0x0FFE →
      step s = completeCycle (exec (decode (wordOfBytes (s.readByte s.pc.toNat) (s.readByte (s.pc.toNat + 1))))
        { s.enterGap with present := false, pc := s.pc + 2 })) ∧
    (∀ u : State, u.fault = none → completeCycle (.next u) = .next (finishCycle u)) ∧
    (∀ u : State, u.fault ≠ none → completeCycle (.next u) = .next u) ∧
    (∀ r : Fault, completeCycle (.fault r) = .fault r) ∧ (∀ r : Refusal, completeCycle (.refused r) = .refused r)

/-- What the end of a cycle does, after the instruction: the release event is cleared (R123), the cycle is counted
(R248), both timers count down in the cycles whose number is a multiple of `TARGET_HZ div 60` and not below 0 (R246 by
the spec's decision D24, R247), the tone is sampled (R249 by D28), and the throttle runs (R256): `debt` and `wtimer` are
those of its algorithm for an entry sample not below `wtimer` (R257; that it is `clockNow` is log 9) and a wake-up time
not before the sleep's end (R258, up to the clock's last value, log 10). Nothing else changes. -/
def Obligations.CycleEndUpdates : Prop :=
  ∀ u t : State, t = finishCycle u →
    t.keyReleased = none ∧ t.cycleCount.toNat = (u.cycleCount.toNat + 1) % 2 ^ 64 ∧
      (t.cycleCount.toNat % (u.cfg.targetHz / 60) = 0 →
        t.DT.toNat = u.DT.toNat - 1 ∧ t.ST.toNat = u.ST.toNat - 1) ∧
      (t.cycleCount.toNat % (u.cfg.targetHz / 60) ≠ 0 → t.DT = u.DT ∧ t.ST = u.ST) ∧
      (t.tone = true ↔ 0 < t.ST.toNat) ∧ t.sleeping = false ∧
      (u.wtimer.toNat ≤ clockNow u ∧ clockNow u < 2 ^ 64 ∧ t.clockReads = u.clockReads + 1 ∧
        ∃ t1 : Nat, min (clockNow u + (throttleEnter (clockNow u) u).debt.toNat) (2 ^ 64 - 1) ≤ t1 ∧ t1 < 2 ^ 64 ∧
          t.debt = (throttleWake t1 (throttleEnter (clockNow u) u)).debt ∧
          t.wtimer = (throttleWake t1 (throttleEnter (clockNow u) u)).wtimer) ∧
      t = { u with keyReleased := t.keyReleased, cycleCount := t.cycleCount, DT := t.DT, ST := t.ST, tone := t.tone
                   debt := t.debt, wtimer := t.wtimer, sleeping := t.sleeping, clockReads := t.clockReads }

/-- A fetch that would touch an address above `0xFFF` faults before anything is fetched, with the lowest such address,
and leaves the state of the cycle's start (R63, R120, R121, R234; the record is the spec's decision D18). -/
def Obligations.FetchFaultTaken : Prop :=
  ∀ s : State, s.enterGap.ready = true → 0x0FFE < s.pc.toNat →
    step s = .next { s.enterGap with
      present := false
      fault := some { cause := .fetch, fpc := s.pc, fir := none
                      faddr := some (if s.pc.toNat < 0x1000 then 0x1000 else s.pc.toNat) } }

/-- When no cycle runs: a halted engine (R126, R233 by the spec's decision D18), an engine whose `run` is low (R42; log
6), a configuration that does not leave reset (R286 by D23; log 3). -/
def Obligations.NoCycleWhenStopped : Prop :=
  ∀ s : State,
    (s.fault ≠ none → step s = .fault .halted) ∧
      (s.fault = none → s.enterGap.run = false → step s = .fault .stopped) ∧
      (s.fault = none → s.enterGap.run = true → ¬(0 < s.cfg.targetHz ∧ s.cfg.targetHz % 60 = 0) →
        step s = .refused .rateRefused)

/-- The gap before a cycle writes nothing but the keypad, the release event and the control line `run`: all the writes of
its list, in the order of the list, which it takes off the ones to come (R40, R42; that the writes lie in State is the
model's choice, log 7). -/
def Obligations.GapWritesInputsOnly : Prop :=
  (∀ s : State, s.enterGap = { s with keypad := s.enterGap.keypad, keyReleased := s.enterGap.keyReleased
                                      run := s.enterGap.run, inputs := s.inputs.tail }) ∧
    (∀ s : State, s.inputs = [] → s.enterGap = s) ∧
    (∀ (s : State) (ws : List GapWrite) (later : List (List GapWrite)), s.inputs = ws :: later →
      s.enterGap = applyWrites ws { s with inputs := later }) ∧
    (∀ (s : State) (k : Key) (held : Bool) (later : List (List GapWrite)), s.inputs = [.key k held] :: later →
      s.enterGap = { s with keypad := s.enterGap.keypad, inputs := later } ∧
        ∀ j : Key, s.enterGap.getKey j = if j = k then held else s.getKey j) ∧
    (∀ (s : State) (e : Option Key) (later : List (List GapWrite)), s.inputs = [.release e] :: later →
      s.enterGap = { s with keyReleased := e, inputs := later }) ∧
    (∀ (s : State) (level : Bool) (later : List (List GapWrite)), s.inputs = [.run level] :: later →
      s.enterGap = { s with run := level, inputs := later }) ∧
    (∀ (s : State) (ws vs : List GapWrite), applyWrites (ws ++ vs) s = applyWrites vs (applyWrites ws s))

/-! ## Faults -/

/-- Faults are precise: a step that leaves a fault record leaves, beside it, exactly the state of the cycle's start,
with `present` low; the record holds the faulting instruction's address and, but for a fetch fault, its word (R232,
R234, R41; the spec's decisions D18, D19). -/
def Obligations.FaultsArePrecise : Prop :=
  ∀ s t : State, s.fault = none → step s = .next t → t.fault ≠ none →
    ∃ r : FaultRecord, t = { s.enterGap with present := false, fault := some r } ∧ r.fpc = s.pc ∧
      (r.cause = .fetch → r.cause.code = 3 ∧ r.cause.kind = some .fetch ∧ 0x0FFE < s.pc.toNat ∧ r.fir = none ∧
        r.faddr = some (max s.pc.toNat 0x1000)) ∧
      (r.cause ≠ .fetch → s.pc.toNat ≤ 0x0FFE ∧
        r.fir = some (wordOfBytes (s.readByte s.pc.toNat) (s.readByte (s.pc.toNat + 1))))

/-- Which instruction raises which fault, and on what; every other instruction raises none (R230, R231, R235; the
sub-kinds are the spec's decisions D16, D18). -/
def Obligations.FaultsAndTheirRaisers : Prop :=
  ∀ (i : Instr) (s t : State) (r : FaultRecord), s.fault = none → exec i s = .next t → t.fault = some r →
    (r.cause = .decode ∧ r.cause.code = 1 ∧ r.cause.kind = none ∧ r.faddr = none ∧
        i = .nop ∧ s.cfg.unknownOpcodeFaults = true) ∨
      (r.cause = .stackOverflow ∧ r.cause.code = 2 ∧ r.cause.kind = some .overflow ∧ r.faddr = none ∧
         (∃ nnn, i = .call nnn) ∧ 16 ≤ s.SP.toNat) ∨
      (r.cause = .stackUnderflow ∧ r.cause.code = 2 ∧ r.cause.kind = some .underflow ∧ r.faddr = none ∧
         i = .ret ∧ s.SP.toNat = 0) ∨
      (r.cause = .data ∧ r.cause.code = 3 ∧ r.cause.kind = some .data ∧ r.faddr = some (max s.I.toNat 0x1000) ∧
        ((∃ x y n, i = .draw x y n ∧ 0 < n ∧ 0xFFF < s.I.toNat + (n - 1)) ∨
          (∃ x, i = .storeBcd x ∧ 0xFFF < s.I.toNat + 2) ∨
          (∃ x, (i = .storeRegs x ∨ i = .loadRegs x) ∧ 0xFFF < s.I.toNat + x.val))) ∨
      (r.cause = .key ∧ r.cause.code = 3 ∧ r.cause.kind = some .key ∧
        ∃ x, (i = .skipPressed x ∨ i = .skipNotPressed x) ∧ 15 < (s.getV x).toNat ∧ r.faddr = some (s.getV x).toNat)

/-! ## Whole-machine rules -/

/-- The access table: an instruction that answers a next state leaves alone every element its row does not mark as
written (`pc`, beyond the fetch, where it has not faulted), and never touches the release event, the cycle counter, the
throttle, the outputs `tone` and `sleeping`, `run`, or the configuration (R37, R31, R34, R260). -/
def Obligations.AccessTableHolds : Prop :=
  ∀ (i : Instr) (s t : State), exec i s = .next t →
    (∀ e : Element, e ∉ writes i → e ≠ .pc → Unchanged e s t) ∧
      (.pc ∉ writes i → t.fault = none → t.pc = s.pc) ∧
      t.keyReleased = s.keyReleased ∧ t.cycleCount = s.cycleCount ∧ t.debt = s.debt ∧ t.wtimer = s.wtimer ∧
      t.tone = s.tone ∧ t.sleeping = s.sleeping ∧ t.run = s.run ∧ t.cfg = s.cfg ∧ t.inputs = s.inputs ∧
      t.clockReads = s.clockReads

/-- No instruction reads the cycle counter, the throttle's state or the outputs: whatever they hold, it answers the same
(R30, R33, R35, R248, R260). -/
def Obligations.NoInstructionReadsCounters : Prop :=
  ∀ (i : Instr) (s : State) (cc d w : BitVec 64) (k : Nat) (tone : Bool),
    exec i { s with cycleCount := cc, debt := d, wtimer := w, clockReads := k, tone := tone }
      = mapNext (fun t => { t with cycleCount := cc, debt := d, wtimer := w, clockReads := k, tone := tone }) (exec i s)

/-- R248: the cycle counter goes up by one modulo 2^64 in every cycle that does not fault, whatever the instruction, and
stays in one that does (R232). -/
def Obligations.CycleCounterCounts : Prop :=
  ∀ s t : State, s.enterGap.ready = true → step s = .next t →
    (t.fault = none → t.cycleCount.toNat = (s.cycleCount.toNat + 1) % 2 ^ 64) ∧
      (t.fault ≠ none → t.cycleCount = s.cycleCount)

/-- R247: between two writes by the program a timer never rises, and at 0 it stays at 0. -/
def Obligations.TimersNeverRise : Prop :=
  ∀ s t : State, step s = .next t →
    ((∀ x, fetchInstr s ≠ .loadDelayTimer x) → t.DT.toNat ≤ s.DT.toNat ∧ (s.DT = 0 → t.DT = 0)) ∧
      ((∀ x, fetchInstr s ≠ .loadSoundTimer x) → t.ST.toNat ≤ s.ST.toNat ∧ (s.ST = 0 → t.ST = 0))

/-- R123: after every cycle that runs and does not fault, whatever its instruction, the release event is gone. -/
def Obligations.ReleaseEventCleared : Prop :=
  ∀ s t : State, s.enterGap.ready = true → step s = .next t → t.fault = none → t.keyReleased = none

/-- R34: the configuration is what was latched at reset, and no step changes it. -/
def Obligations.ConfigurationConstant : Prop :=
  (∀ (cfg : EngineConfig) (rom : List Byte) (now : BitVec 64) (t : State), boot cfg rom now = .next t → t.cfg = cfg) ∧
    (∀ s t : State, step s = .next t → t.cfg = s.cfg)

/-- Every step keeps memory in its canonical form (R25, R60). -/
def Obligations.MemoryStaysCanonical : Prop :=
  ∀ s t : State, MemoryCanonical s → step s = .next t → MemoryCanonical t

/-- Every step keeps `SP` in 0..16, every live stack entry at most `0x1000` and `pc` at most `0x10FE` (R23, R24, R143;
inferences the spec marks as its own, with its decision D17). -/
def Obligations.StackAndPcStayLegal : Prop :=
  ∀ s t : State, StackAndPcLegal s → step s = .next t → StackAndPcLegal t

/-- An engine that can run a cycle, with a legal stack, always completes the step: no instruction is stuck (R2, R120,
R232). -/
def Obligations.ReadyEngineAlwaysSteps : Prop :=
  ∀ s : State, StackAndPcLegal s → s.enterGap.ready = true → ∃ t : State, step s = .next t

/-- Every step leaves the tone output saying whether the sound timer runs, if it did so before (R249 by the spec's
decision D28). -/
def Obligations.ToneStaysSampled : Prop := ∀ s t : State, ToneSampled s → step s = .next t → ToneSampled t

/-! ## The throttle -/

/-- The throttle's three paths: the slow branch, the fast branch without a sleep, the fast branch with one (R256, R258;
its unwritten points are the spec's decision D26). First for every entry sample and every wake-up time in the clock's
range. Then of the end of a cycle, whose entry sample is `clockNow` (log 9), not below `wtimer` (R257): there the window
after a sleep starts at a wake-up time not before the entry sample and the debt together, up to the clock's last value
(R258; log 10). -/
def Obligations.ThrottlePaths : Prop :=
  (∀ (s t : State) (t0 t1 elapsed duty : Nat), s.wtimer.toNat ≤ t0 → t0 < 2 ^ 64 → t1 < 2 ^ 64 →
    elapsed = t0 - s.wtimer.toNat → duty = 1000000000 / s.cfg.targetHz → s.debt.toNat ≤ 25000000 →
    t = throttleWake t1 (throttleEnter t0 s) →
      (duty ≤ elapsed → t.debt.toNat = (if elapsed - duty ≤ s.debt.toNat then s.debt.toNat - (elapsed - duty) else 0) ∧
        t.wtimer.toNat = t0 ∧ (throttleEnter t0 s).sleeping = false) ∧
      (elapsed < duty → s.debt.toNat + (duty - elapsed) ≤ 25000000 →
        t.debt.toNat = s.debt.toNat + (duty - elapsed) ∧ t.wtimer.toNat = t0 ∧ (throttleEnter t0 s).sleeping = false) ∧
      (elapsed < duty → 25000000 < s.debt.toNat + (duty - elapsed) →
        t.debt = 0 ∧ t.wtimer.toNat = t1 ∧ (throttleEnter t0 s).sleeping = true) ∧
      t = { s with debt := t.debt, wtimer := t.wtimer, sleeping := false }) ∧
  (∀ (u t : State) (t0 elapsed duty : Nat), t0 = clockNow u → elapsed = t0 - u.wtimer.toNat →
    duty = 1000000000 / u.cfg.targetHz → u.debt.toNat ≤ 25000000 → t = finishCycle u →
      u.wtimer.toNat ≤ t0 ∧ t0 < 2 ^ 64 ∧
      (duty ≤ elapsed → t.debt.toNat = (if elapsed - duty ≤ u.debt.toNat then u.debt.toNat - (elapsed - duty) else 0) ∧
        t.wtimer.toNat = t0) ∧
      (elapsed < duty → u.debt.toNat + (duty - elapsed) ≤ 25000000 →
        t.debt.toNat = u.debt.toNat + (duty - elapsed) ∧ t.wtimer.toNat = t0) ∧
      (elapsed < duty → 25000000 < u.debt.toNat + (duty - elapsed) →
        t.debt = 0 ∧ min (t0 + (u.debt.toNat + (duty - elapsed))) (2 ^ 64 - 1) ≤ t.wtimer.toNat))

/-- Every step keeps `0 <= debt <= THRESHOLD` (R259, an inference the spec marks as its own). -/
def Obligations.DebtStaysBounded : Prop := ∀ s t : State, DebtBounded s → step s = .next t → DebtBounded t

/-- R257: the clock readings that the steps take never run back, and the sample at the throttle's entry is never below
the window's start, so no subtraction of R256 goes negative. -/
def Obligations.ClockNeverRunsBack : Prop :=
  (∀ s : State, s.wtimer.toNat ≤ clockNow s) ∧
    (∀ s t : State, step s = .next t → s.wtimer.toNat ≤ t.wtimer.toNat)

/-- The throttle is invisible: two states that differ in `debt`, `wtimer` and the clock alone step to the same stop, or
to next states that differ in those alone (R260, an inference the spec marks as its own). -/
def Obligations.ThrottleInvisible : Prop :=
  ∀ (s : State) (d w : BitVec 64) (k : Nat),
    mapNext eraseThrottle (step { s with debt := d, wtimer := w, clockReads := k }) = mapNext eraseThrottle (step s)

/-! ## Nop and control flow -/

/-- `Nop` changes nothing under the policy `false` and raises `DecodeFault` under `true`; the decoder gives it for a word
of the Nop space such as zero-filled memory (R124, R125 by the spec's decision D8). -/
def Obligations.NopByPolicy : Prop :=
  decode 0x0000 = .nop ∧ ∀ s : State,
    (s.cfg.unknownOpcodeFaults = false → exec .nop s = .next s) ∧
      (s.cfg.unknownOpcodeFaults = true → exec .nop s = .next (FaultedFrom s .decode none))

/-- R141: `Jump(nnn)`. -/
def Obligations.JumpSetsPc : Prop :=
  ∀ nnn : BitVec 12, decode (encodeNnn 0x1 nnn) = .jump nnn ∧
    ∀ s : State, ∃ t, exec (.jump nnn) s = .next t ∧ t.pc.toNat = nnn.toNat ∧ OnlyPc s t

/-- R144: `JumpOff(nnn)`: always `V[0]`, no reduction. -/
def Obligations.JumpOffAddsV0 : Prop :=
  ∀ nnn : BitVec 12, decode (encodeNnn 0xB nnn) = .jumpOff nnn ∧
    ∀ s : State, ∃ t, exec (.jumpOff nnn) s = .next t ∧ t.pc.toNat = nnn.toNat + (s.getV 0).toNat ∧ OnlyPc s t

/-- R142: `Call(nnn)`: with fewer than 16 entries the post-fetch `pc` is pushed and control goes to `nnn`; with 16 it
faults. -/
def Obligations.CallPushesOrOverflows : Prop :=
  ∀ nnn : BitVec 12, decode (encodeNnn 0x2 nnn) = .call nnn ∧ ∀ s : State,
    (∀ h : s.SP.toNat < 16, ∃ t, exec (.call nnn) s = .next t ∧ t.stackEntry ⟨s.SP.toNat, h⟩ = s.pc ∧
      t.SP.toNat = s.SP.toNat + 1 ∧ t.pc.toNat = nnn.toNat ∧
      (∀ k : Fin 16, k.val ≠ s.SP.toNat → t.stackEntry k = s.stackEntry k) ∧
      t = { s with stack := t.stack, SP := t.SP, pc := t.pc } ∧ SameMemory s t) ∧
    (16 ≤ s.SP.toNat → exec (.call nnn) s = .next (FaultedFrom s .stackOverflow none))

/-- R143: `Return`: the newest entry goes to `pc` and stays in the array; with an empty stack it faults. -/
def Obligations.ReturnPopsOrUnderflows : Prop :=
  decode 0x00EE = .ret ∧ ∀ s : State,
    (∀ h : s.SP.toNat - 1 < 16, 0 < s.SP.toNat → ∃ t, exec .ret s = .next t ∧
      t.pc = s.stackEntry ⟨s.SP.toNat - 1, h⟩ ∧ t.SP.toNat = s.SP.toNat - 1 ∧
      t = { s with SP := t.SP, pc := t.pc } ∧ SameMemory s t) ∧
    (s.SP.toNat = 0 → exec .ret s = .next (FaultedFrom s .stackUnderflow none))

/-- A `Return` after a `Call` comes back to the instruction after the `Call`, at the depth before it; nothing but the
entry at that depth, which is dead, may differ from the state before the `Call` (R142, R143). -/
def Obligations.CallThenReturnComesBack : Prop :=
  ∀ (nnn : BitVec 12) (s u : State), s.SP.toNat < 16 → exec (.call nnn) s = .next u →
    ∃ t, exec .ret u = .next t ∧ t.pc = s.pc ∧ t.SP = s.SP ∧
      (∀ k : Fin 16, k.val ≠ s.SP.toNat → t.stackEntry k = s.stackEntry k) ∧ t = { s with stack := t.stack } ∧
      SameMemory s t

/-- R146, R147: the skips on an immediate. -/
def Obligations.SkipsOnImmediate : Prop :=
  ∀ (x : Reg) (nn : Byte), decode (encodeXnn 0x3 x nn) = .skipEqIm x nn ∧ decode (encodeXnn 0x4 x nn) = .skipNeIm x nn ∧
    ∀ s : State,
      (∃ t, exec (.skipEqIm x nn) s = .next t ∧ OnlyPc s t ∧ t.pc = if s.getV x = nn then s.pc + 2 else s.pc) ∧
      (∃ t, exec (.skipNeIm x nn) s = .next t ∧ OnlyPc s t ∧ t.pc = if s.getV x = nn then s.pc else s.pc + 2)

/-- The skips on two registers (R148, R149); with a non-zero low nibble their families' words are `Nop` (R100, the spec's
decision D4). -/
def Obligations.SkipsOnRegisters : Prop :=
  ∀ (x y : Reg), decode (encodeXyn 0x5 x y 0x0) = .skipEq x y ∧ decode (encodeXyn 0x9 x y 0x0) = .skipNe x y ∧
    (∀ n : BitVec 4, n ≠ 0 → decode (encodeXyn 0x5 x y n) = .nop ∧ decode (encodeXyn 0x9 x y n) = .nop) ∧
    ∀ s : State,
      (∃ t, exec (.skipEq x y) s = .next t ∧ OnlyPc s t ∧ t.pc = if s.getV x = s.getV y then s.pc + 2 else s.pc) ∧
      (∃ t, exec (.skipNe x y) s = .next t ∧ OnlyPc s t ∧ t.pc = if s.getV x = s.getV y then s.pc else s.pc + 2)

/-! ## Arithmetic -/

/-- R161: `LoadIm(x, nn)`, with `x = 15` writing VF as an ordinary register. -/
def Obligations.LoadImWrites : Prop :=
  ∀ (x : Reg) (nn : Byte), decode (encodeXnn 0x6 x nn) = .loadIm x nn ∧
    ∀ s : State, ∃ t, exec (.loadIm x nn) s = .next t ∧ t.getV x = nn ∧ OnlyRegs [x] s t

/-- R162: `AddIm(x, nn)` wraps and writes no flag. -/
def Obligations.AddImWraps : Prop :=
  ∀ (x : Reg) (nn : Byte), decode (encodeXnn 0x7 x nn) = .addIm x nn ∧
    ∀ s : State, ∃ t, exec (.addIm x nn) s = .next t ∧
      (t.getV x).toNat = ((s.getV x).toNat + nn.toNat) % 256 ∧ OnlyRegs [x] s t

/-- R163: `Move(x, y)`. -/
def Obligations.MoveCopies : Prop :=
  ∀ (x y : Reg), decode (encodeXyn 0x8 x y 0x0) = .move x y ∧
    ∀ s : State, ∃ t, exec (.move x y) s = .next t ∧ t.getV x = s.getV y ∧ OnlyRegs [x] s t

/-- `Or`, `And`, `Xor`, bit by bit; VF is left unchanged unless it is the destination (R164, R165, R166 by the spec's
decision D10). -/
def Obligations.LogicBitwise : Prop :=
  ∀ (x y : Reg) (s : State),
    (∃ t, exec (.or x y) s = .next t ∧ OnlyRegs [x] s t ∧
      ∀ k < 8, (t.getV x).getLsbD k = ((s.getV x).getLsbD k || (s.getV y).getLsbD k)) ∧
    (∃ t, exec (.and x y) s = .next t ∧ OnlyRegs [x] s t ∧
      ∀ k < 8, (t.getV x).getLsbD k = ((s.getV x).getLsbD k && (s.getV y).getLsbD k)) ∧
    (∃ t, exec (.xor x y) s = .next t ∧ OnlyRegs [x] s t ∧
      ∀ k < 8, (t.getV x).getLsbD k = ((s.getV x).getLsbD k ^^ (s.getV y).getLsbD k))

/-- R167: `Add(x, y)`: the sum modulo 256, then the carry in VF, which is what VF holds where `x = 15`. -/
def Obligations.AddSumAndCarry : Prop :=
  ∀ (x y : Reg), decode (encodeXyn 0x8 x y 0x4) = .add x y ∧ ∀ s : State, ∃ t, exec (.add x y) s = .next t ∧
    (x ≠ 15 → (t.getV x).toNat = ((s.getV x).toNat + (s.getV y).toNat) % 256) ∧
    (t.getV 15).toNat = (if (s.getV x).toNat + (s.getV y).toNat > 255 then 1 else 0) ∧ OnlyRegs [x, 15] s t

/-- R168, R169: `Sub(x, y)` and `SubN(x, y)`: the difference, and VF = 1 where no borrow occurred. -/
def Obligations.SubDifferenceAndNotBorrow : Prop :=
  ∀ (x y : Reg), decode (encodeXyn 0x8 x y 0x5) = .sub x y ∧ decode (encodeXyn 0x8 x y 0x7) = .subN x y ∧ ∀ s : State,
    (∃ t, exec (.sub x y) s = .next t ∧
      (x ≠ 15 → (t.getV x).toNat = if (s.getV y).toNat ≤ (s.getV x).toNat then (s.getV x).toNat - (s.getV y).toNat
        else (s.getV x).toNat + 256 - (s.getV y).toNat) ∧
      (t.getV 15).toNat = (if (s.getV y).toNat ≤ (s.getV x).toNat then 1 else 0) ∧ OnlyRegs [x, 15] s t) ∧
    (∃ t, exec (.subN x y) s = .next t ∧
      (x ≠ 15 → (t.getV x).toNat = if (s.getV x).toNat ≤ (s.getV y).toNat then (s.getV y).toNat - (s.getV x).toNat
        else (s.getV y).toNat + 256 - (s.getV x).toNat) ∧
      (t.getV 15).toNat = (if (s.getV x).toNat ≤ (s.getV y).toNat then 1 else 0) ∧ OnlyRegs [x, 15] s t)

/-- R170, R171: `Shr(x)` and `Shl(x)`, in place, the bit shifted out in VF, for every value of the ignored nibble. -/
def Obligations.ShiftsAndBitOut : Prop :=
  ∀ (x y : Reg), decode (encodeXyn 0x8 x y 0x6) = .shr x ∧ decode (encodeXyn 0x8 x y 0xE) = .shl x ∧ ∀ s : State,
    (∃ t, exec (.shr x) s = .next t ∧ (x ≠ 15 → (t.getV x).toNat = (s.getV x).toNat / 2) ∧
      (t.getV 15).toNat = (s.getV x).toNat % 2 ∧ OnlyRegs [x, 15] s t) ∧
    (∃ t, exec (.shl x) s = .next t ∧ (x ≠ 15 → (t.getV x).toNat = 2 * (s.getV x).toNat % 256) ∧
      (t.getV 15).toNat = (s.getV x).toNat / 128 ∧ OnlyRegs [x, 15] s t)

/-- `Rand(x, nn)`: `V[x]` becomes some byte ANDed with `nn`; the byte is a free value, the one of this draw (R175, the
spec's general knowledge G4; log 8). -/
def Obligations.RandMasksFreeByte : Prop :=
  ∀ (x : Reg) (nn : Byte) (s : State), ∃ t, exec (.rand x nn) s = .next t ∧
    t.getV x = Config.randByte s.draws &&& nn ∧ t.getV x &&& ~~~nn = 0 ∧ (∀ r : Reg, r ≠ x → t.getV r = s.getV r) ∧
    t = { s with V := t.V, draws := s.draws + 1 } ∧ SameMemory s t

/-! ## Index and memory -/

/-- R181, R183: `LoadI(nnn)` and `SetSpriteAddr(x)`. -/
def Obligations.IndexLoads : Prop :=
  (∀ nnn : BitVec 12, decode (encodeNnn 0xA nnn) = .loadI nnn ∧
    ∀ s : State, ∃ t, exec (.loadI nnn) s = .next t ∧ t.I.toNat = nnn.toNat ∧ OnlyI s t) ∧
  (∀ x : Reg, decode (encodeXnn 0xF x 0x29) = .setSpriteAddr x ∧
    ∀ s : State, ∃ t, exec (.setSpriteAddr x) s = .next t ∧ t.I.toNat = 5 * ((s.getV x).toNat % 16) ∧ OnlyI s t)

/-- `AddI(x)`: the 16-bit sum, no flag, no fault (R182; the wrap is the spec's decision D11). -/
def Obligations.AddIWraps : Prop :=
  ∀ (x : Reg) (s : State), ∃ t, exec (.addI x) s = .next t ∧
    t.I.toNat = (s.I.toNat + (s.getV x).toNat) % 65536 ∧ OnlyI s t

/-- R184: `StoreBcd(x)`: hundreds, tens and units at `I`, `I + 1`, `I + 2`, or the data fault before any byte is
written. Memory's canonical form, an invariant of the machine, is a premise. -/
def Obligations.StoreBcdDigits : Prop :=
  ∀ x : Reg, decode (encodeXnn 0xF x 0x33) = .storeBcd x ∧ ∀ s : State,
    (s.I.toNat + 2 ≤ 0xFFF → MemoryCanonical s → ∃ t, exec (.storeBcd x) s = .next t ∧
      (t.readByte s.I.toNat).toNat = (s.getV x).toNat / 100 ∧
      (t.readByte (s.I.toNat + 1)).toNat = (s.getV x).toNat / 10 % 10 ∧
      (t.readByte (s.I.toNat + 2)).toNat = (s.getV x).toNat % 10 ∧ OnlyBytes s.I.toNat 3 s t) ∧
    (0xFFF < s.I.toNat + 2 → exec (.storeBcd x) s = .next (FaultedFrom s .data (some (max s.I.toNat 0x1000))))

/-- R185: `StoreRegs(x)`: `V[0]`..`V[x]` to `I`..`I + x`, or the data fault before any byte is written. Memory's
canonical form is a premise. -/
def Obligations.StoreRegsBlock : Prop :=
  ∀ x : Reg, decode (encodeXnn 0xF x 0x55) = .storeRegs x ∧ ∀ s : State,
    (s.I.toNat + x.val ≤ 0xFFF → MemoryCanonical s → ∃ t, exec (.storeRegs x) s = .next t ∧
      (∀ k : Reg, k ≤ x → t.readByte (s.I.toNat + k.val) = s.getV k) ∧ OnlyBytes s.I.toNat (x.val + 1) s t) ∧
    (0xFFF < s.I.toNat + x.val → exec (.storeRegs x) s = .next (FaultedFrom s .data (some (max s.I.toNat 0x1000))))

/-- R186: `LoadRegs(x)`: `I`..`I + x` to `V[0]`..`V[x]`, or the data fault before any register is written. -/
def Obligations.LoadRegsBlock : Prop :=
  ∀ x : Reg, decode (encodeXnn 0xF x 0x65) = .loadRegs x ∧ ∀ s : State,
    (s.I.toNat + x.val ≤ 0xFFF → ∃ t, exec (.loadRegs x) s = .next t ∧
      (∀ k : Reg, k ≤ x → t.getV k = s.readByte (s.I.toNat + k.val)) ∧ (∀ k : Reg, x < k → t.getV k = s.getV k) ∧
      t = { s with V := t.V } ∧ SameMemory s t) ∧
    (0xFFF < s.I.toNat + x.val → exec (.loadRegs x) s = .next (FaultedFrom s .data (some (max s.I.toNat 0x1000))))

/-- A `LoadRegs(x)` after a `StoreRegs(x)` at the same `I` leaves the registers as they were, whatever has become of
them in between (R185, R186, R69). -/
def Obligations.StoreThenLoadRegs : Prop :=
  ∀ (x : Reg) (s u : State) (V : Vector Byte 16), MemoryCanonical s → s.I.toNat + x.val ≤ 0xFFF →
    exec (.storeRegs x) s = .next u → ∃ t, exec (.loadRegs x) { u with V := V } = .next t ∧
      ∀ k : Reg, k ≤ x → t.getV k = s.getV k

/-! ## Timers, input, drawing -/

/-- `LoadFromDelayTimer(x)`, `LoadDelayTimer(x)`, `LoadSoundTimer(x)`: one byte, unchanged; the tick and the tone of the
same cycle are the cycle's end (R200 to R203). -/
def Obligations.TimerMoves : Prop :=
  ∀ (x : Reg) (s : State),
    (∃ t, exec (.loadFromDelayTimer x) s = .next t ∧ t.getV x = s.DT ∧ OnlyRegs [x] s t) ∧
    (∃ t, exec (.loadDelayTimer x) s = .next t ∧ t.DT = s.getV x ∧ t = { s with DT := t.DT } ∧ SameMemory s t) ∧
    (∃ t, exec (.loadSoundTimer x) s = .next t ∧ t.ST = s.getV x ∧ t = { s with ST := t.ST } ∧ SameMemory s t)

/-- `SkipPressed(x)` and `SkipNotPressed(x)`: the skip by the key's flag, and the key fault above 15 (R210, R211, R213;
the fault is the spec's decision D16). -/
def Obligations.SkipsOnKey : Prop :=
  ∀ (x : Reg) (s : State),
    (∀ h : (s.getV x).toNat < 16,
      (∃ t, exec (.skipPressed x) s = .next t ∧ OnlyPc s t ∧
        t.pc = if s.getKey ⟨(s.getV x).toNat, h⟩ = true then s.pc + 2 else s.pc) ∧
      (∃ t, exec (.skipNotPressed x) s = .next t ∧ OnlyPc s t ∧
        t.pc = if s.getKey ⟨(s.getV x).toNat, h⟩ = true then s.pc else s.pc + 2)) ∧
    (15 < (s.getV x).toNat →
      exec (.skipPressed x) s = .next (FaultedFrom s .key (some (s.getV x).toNat)) ∧
      exec (.skipNotPressed x) s = .next (FaultedFrom s .key (some (s.getV x).toNat)))

/-- `WaitKeypress(x)`: a pending release clears that key's flag and puts its number in `V[x]`; without one `pc` goes
back to the instruction's own address. The event itself is cleared by the cycle's end (R212, R123). -/
def Obligations.WaitKeypressCompletesOrRewinds : Prop :=
  ∀ (x : Reg) (s : State),
    (∀ k : Key, s.keyReleased = some k → ∃ t, exec (.waitKeypress x) s = .next t ∧ (t.getV x).toNat = k.val ∧
      (∀ r : Reg, r ≠ x → t.getV r = s.getV r) ∧ t.getKey k = false ∧ (∀ j : Key, j ≠ k → t.getKey j = s.getKey j) ∧
      t = { s with V := t.V, keypad := t.keypad } ∧ SameMemory s t) ∧
    (s.keyReleased = none → ∃ t, exec (.waitKeypress x) s = .next t ∧ t.pc = s.pc - 2 ∧ OnlyPc s t)

/-- R221: `Clear` turns every cell OFF and raises `present`; VF is not touched. -/
def Obligations.ClearTurnsAllOff : Prop :=
  decode 0x00E0 = .clear ∧ ∀ s : State, ∃ t, exec .clear s = .next t ∧
    (∀ (row : Fin 32) (col : Fin 64), Framebuffer.cell t.fb row col = false) ∧ t.present = true ∧ t.getV 15 = s.getV 15 ∧
    t = { s with fb := t.fb, present := t.present } ∧ SameMemory s t

/-- `Draw(x, y, n)` in closed form: each cell is XORed with the one sprite bit that lies on it, both axes wrapping; VF
becomes 1 where a sprite bit lies on a cell that was ON and is left alone otherwise; `present` is raised; or the data
fault before anything changes (R222, R223, R224; the spec's decisions D13, D14, D15). -/
def Obligations.DrawClosedForm : Prop :=
  ∀ (x y : Reg) (n : Nat) (s : State), n < 16 →
    (n = 0 ∨ s.I.toNat + (n - 1) ≤ 0xFFF → ∃ t, exec (.draw x y n) s = .next t ∧
      (∀ (row : Fin 32) (col : Fin 64), Framebuffer.cell t.fb row col
        = (Framebuffer.cell s.fb row col ^^ drawnBit s (s.getV x) (s.getV y) n row col)) ∧
      ((∃ (row : Fin 32) (col : Fin 64), drawnBit s (s.getV x) (s.getV y) n row col = true ∧
        Framebuffer.cell s.fb row col = true) → t.getV 15 = 1) ∧
      ((∀ (row : Fin 32) (col : Fin 64), drawnBit s (s.getV x) (s.getV y) n row col = true →
        Framebuffer.cell s.fb row col = false) → t.getV 15 = s.getV 15) ∧
      (∀ r : Reg, r ≠ 15 → t.getV r = s.getV r) ∧ t.present = true ∧
      t = { s with V := t.V, fb := t.fb, present := t.present } ∧ SameMemory s t) ∧
    (0 < n → 0xFFF < s.I.toNat + (n - 1) →
      exec (.draw x y n) s = .next (FaultedFrom s .data (some (max s.I.toNat 0x1000))))

/-- Drawing the same sprite twice at the same place restores the grid (R222, corner case (e)). -/
def Obligations.DrawTwiceRestoresGrid : Prop :=
  ∀ (x y : Reg) (n : Nat) (s u : State), n < 16 → x ≠ 15 → y ≠ 15 → n = 0 ∨ s.I.toNat + (n - 1) ≤ 0xFFF →
    exec (.draw x y n) s = .next u → ∃ t, exec (.draw x y n) u = .next t ∧ t.fb = s.fb

/-! ## Stops -/

/-- A `Return` at a depth above 16 stops by name: the entry does not exist. The spec keeps `SP` within 0..16 (R24); the
stop outside that range is the model's choice (log 13). -/
def Obligations.ReturnAboveLegalDepthStops : Prop :=
  ∀ s : State, 16 < s.SP.toNat → exec .ret s = .fault .stackEntryAbsent
end

