-- ==== Sys2Proof/Laws/Memory.lean ====
section
/-! SUPPORT. The laws of memory: a read after a write, the bytes a write leaves alone, and the canonical form. -/

namespace Sys2Proof.Machine

/-! ## The canonical form -/

/-- Raising the lower bound of a list keeps it a canonical form of the smaller bound. -/
theorem Memory.wfFrom_mono {lo lo' : Nat} {m : Memory} (h : Memory.wfFrom lo m = true) (hle : lo' ≤ lo) :
    Memory.wfFrom lo' m = true := by
  cases m with
  | nil => rfl
  | cons e rest =>
    obtain ⟨k, b⟩ := e
    simp only [Memory.wfFrom, Bool.and_eq_true, decide_eq_true_eq] at h ⊢
    exact ⟨⟨⟨by omega, h.1.1.2⟩, h.1.2⟩, h.2⟩

/-- Below its lower bound a canonical list reads as the reset content. -/
theorem Memory.read_of_wfFrom {lo a : Nat} {m : Memory} (h : Memory.wfFrom lo m = true) (ha : a < lo) :
    Memory.read m a = Memory.initial a := by
  induction m generalizing lo with
  | nil => rfl
  | cons e rest ih =>
    obtain ⟨k, b⟩ := e
    simp only [Memory.wfFrom, Bool.and_eq_true, decide_eq_true_eq] at h
    rw [Memory.read, if_neg (by omega), ih h.2 (by omega)]

/-- Inserting a byte keeps the canonical form. -/
theorem Memory.insert_wfFrom {lo a : Nat} {b : Byte} {m : Memory} (h : Memory.wfFrom lo m = true) (hlo : lo ≤ a)
    (ha : Memory.inRange a = true) : Memory.wfFrom lo (Memory.insert m a b) = true := by
  induction m generalizing lo with
  | nil =>
    unfold Memory.insert
    split
    · rfl
    · simp [Memory.wfFrom, *]
  | cons e rest ih =>
    obtain ⟨k, c⟩ := e
    have h' := h
    simp only [Memory.wfFrom, Bool.and_eq_true, decide_eq_true_eq] at h
    unfold Memory.insert
    split
    · split
      · exact h'
      · have hk := h.2
        simp only [Memory.wfFrom, Bool.and_eq_true, decide_eq_true_eq]
        exact ⟨⟨⟨hlo, ha⟩, by assumption⟩, ⟨⟨by omega, h.1.1.2⟩, h.1.2⟩, hk⟩
    · split
      · next heq =>
        subst heq
        split
        · exact Memory.wfFrom_mono h.2 (by omega)
        · simp only [Memory.wfFrom, Bool.and_eq_true, decide_eq_true_eq]
          exact ⟨⟨⟨hlo, ha⟩, by assumption⟩, h.2⟩
      · simp only [Memory.wfFrom, Bool.and_eq_true, decide_eq_true_eq]
        exact ⟨h.1, ih h.2 (by omega)⟩

/-- Every write keeps the canonical form. -/
theorem Memory.write_wf {m : Memory} (a : Nat) (b : Byte) (h : Memory.wf m = true) :
    Memory.wf (Memory.write m a b) = true := by
  unfold Memory.write
  split
  · exact Memory.insert_wfFrom h (Nat.zero_le a) (by assumption)
  · exact h

/-- The empty list, memory at reset, is in canonical form. -/
theorem Memory.wf_nil : Memory.wf [] = true := rfl

/-! ## Read after write -/

/-- A write leaves every other byte alone, whatever the form of the list. -/
theorem Memory.read_insert_of_ne {m : Memory} {a a' : Nat} {b : Byte} (h : a' ≠ a) :
    Memory.read (Memory.insert m a b) a' = Memory.read m a' := by
  induction m with
  | nil =>
    unfold Memory.insert
    split
    · rfl
    · simp [Memory.read, Ne.symm h]
  | cons e rest ih =>
    obtain ⟨k, c⟩ := e
    unfold Memory.insert
    split
    · split
      · rfl
      · simp [Memory.read, Ne.symm h]
    · split
      · next heq =>
        subst heq
        split <;> simp [Memory.read, Ne.symm h]
      · simp only [Memory.read, ih]

/-- A byte inserted reads back. -/
theorem Memory.read_insert_self {lo a : Nat} {b : Byte} {m : Memory} (h : Memory.wfFrom lo m = true) :
    Memory.read (Memory.insert m a b) a = b := by
  induction m generalizing lo with
  | nil =>
    unfold Memory.insert
    split
    · next hb => simp [Memory.read, hb]
    · simp [Memory.read]
  | cons e rest ih =>
    obtain ⟨k, c⟩ := e
    have h' := h
    simp only [Memory.wfFrom, Bool.and_eq_true, decide_eq_true_eq] at h
    unfold Memory.insert
    split
    · next hlt =>
      split
      · next hb =>
        rw [Memory.read, if_neg (by omega), Memory.read_of_wfFrom h.2 (by omega), hb]
      · simp [Memory.read]
    · split
      · next heq =>
        subst heq
        split
        · next hb => rw [Memory.read_of_wfFrom h.2 (by omega), hb]
        · simp [Memory.read]
      · next hne =>
        rw [Memory.read, if_neg (Ne.symm hne), ih h.2]

/-- A write leaves every other byte alone. -/
theorem Memory.read_write_of_ne {m : Memory} {a a' : Nat} {b : Byte} (h : a' ≠ a) :
    Memory.read (Memory.write m a b) a' = Memory.read m a' := by
  unfold Memory.write
  split
  · exact Memory.read_insert_of_ne h
  · rfl

/-- A byte written in range reads back. -/
theorem Memory.read_write_self {m : Memory} {a : Nat} {b : Byte} (hwf : Memory.wf m = true) (ha : a < 4096) :
    Memory.read (Memory.write m a b) a = b := by
  have hr : Memory.inRange a = true := decide_eq_true ha
  rw [Memory.write, if_pos hr, Memory.read_insert_self hwf]

/-- What a read sees after a write in range. -/
theorem Memory.read_write {m : Memory} {a a' : Nat} {b : Byte} (hwf : Memory.wf m = true) (ha : a < 4096) :
    Memory.read (Memory.write m a b) a' = if a' = a then b else Memory.read m a' := by
  split
  · next h => rw [h, Memory.read_write_self hwf ha]
  · next h => exact Memory.read_write_of_ne h

/-- Above the font the reset content is zero (R36). -/
theorem Memory.initial_eq_zero {a : Nat} (h : 80 ≤ a) : Memory.initial a = 0 := by
  have hl : font.length ≤ a := h
  simp [Memory.initial, List.getD, List.getElem?_eq_none hl]

end Sys2Proof.Machine
end

