-- ==== Sys2Proof/Laws/Boot.lean ====
section
/-! SUPPORT. The states `boot` answers, and what memory holds after its copy of the ROM image (R284). -/

namespace Sys2Proof.Machine

/-- A copy keeps the canonical form. -/
theorem copyBytes_wf (bytes : List Byte) (a : Nat) {m : Memory} (h : Memory.wf m = true) :
    Memory.wf (copyBytes bytes a m) = true := by
  induction bytes generalizing a m with
  | nil => exact h
  | cons b rest ih => exact ih (a + 1) (Memory.write_wf a b h)

/-- The states `boot` answers: the latched inputs have passed their checks, and beside what they set every element is as
in State.reset (R36, R281, R284, R286). -/
theorem boot_next_cases {cfg : EngineConfig} {rom : List Byte} {now : BitVec 64} {t : State}
    (h : boot cfg rom now = .next t) : rateValid cfg = true ∧ rom.length ≤ romMax ∧
      t = { State.reset with cfg := cfg, mem := copyBytes rom 0x200 [], wtimer := now } := by
  unfold boot at h
  split at h
  · cases h
  · next hv =>
    split at h
    · cases h
    · next hl =>
      injection h with h
      exact ⟨by simpa using hv, by omega, h.symm⟩

/-- Every byte after a copy: the copied ones in their places, the others as before. -/
theorem copyBytes_read (bytes : List Byte) {a : Nat} {m : Memory} (hwf : Memory.wf m = true)
    (h : a + bytes.length ≤ 4096) (x : Nat) :
    Memory.read (copyBytes bytes a m) x
      = if hx : a ≤ x ∧ x < a + bytes.length then bytes[x - a] else Memory.read m x := by
  induction bytes generalizing a m with
  | nil =>
    rw [copyBytes, dif_neg]
    rintro ⟨h1, h2⟩
    rw [List.length_nil] at h2
    omega
  | cons b rest ih =>
    simp only [List.length_cons] at h
    rw [copyBytes, ih (Memory.write_wf _ _ hwf) (by omega)]
    by_cases h1 : a + 1 ≤ x ∧ x < a + 1 + rest.length
    · rw [dif_pos h1, dif_pos (by simp; omega)]
      obtain ⟨k, rfl⟩ : ∃ k, x = a + 1 + k := ⟨x - (a + 1), by omega⟩
      have e1 : a + 1 + k - (a + 1) = k := by omega
      have e2 : a + 1 + k - a = k + 1 := by omega
      simp only [e1, e2, List.getElem_cons_succ]
    · rw [dif_neg h1, Memory.read_write hwf (by omega)]
      by_cases h2 : x = a
      · subst h2
        simp
      · rw [if_neg h2, dif_neg (by simp; omega)]

end Sys2Proof.Machine
end

