-- ==== Sys2Proof/Laws/State.lean ====
section
/-! SUPPORT. One lemma per field per update of State, each true by computation, so that no later proof unfolds a record
update. -/

namespace Sys2Proof.Machine

/-! ## State.setV -/

@[simp] theorem State.setV_V (s : State) (x : Reg) (b : Byte) : (s.setV x b).V = s.V.set x b := rfl
@[simp] theorem State.setV_I (s : State) (x : Reg) (b : Byte) : (s.setV x b).I = s.I := rfl
@[simp] theorem State.setV_pc (s : State) (x : Reg) (b : Byte) : (s.setV x b).pc = s.pc := rfl
@[simp] theorem State.setV_SP (s : State) (x : Reg) (b : Byte) : (s.setV x b).SP = s.SP := rfl
@[simp] theorem State.setV_stack (s : State) (x : Reg) (b : Byte) : (s.setV x b).stack = s.stack := rfl
@[simp] theorem State.setV_mem (s : State) (x : Reg) (b : Byte) : (s.setV x b).mem = s.mem := rfl
@[simp] theorem State.setV_DT (s : State) (x : Reg) (b : Byte) : (s.setV x b).DT = s.DT := rfl
@[simp] theorem State.setV_ST (s : State) (x : Reg) (b : Byte) : (s.setV x b).ST = s.ST := rfl
@[simp] theorem State.setV_keypad (s : State) (x : Reg) (b : Byte) : (s.setV x b).keypad = s.keypad := rfl
@[simp] theorem State.setV_keyReleased (s : State) (x : Reg) (b : Byte) : (s.setV x b).keyReleased = s.keyReleased := rfl
@[simp] theorem State.setV_fb (s : State) (x : Reg) (b : Byte) : (s.setV x b).fb = s.fb := rfl
@[simp] theorem State.setV_cycleCount (s : State) (x : Reg) (b : Byte) : (s.setV x b).cycleCount = s.cycleCount := rfl
@[simp] theorem State.setV_fault (s : State) (x : Reg) (b : Byte) : (s.setV x b).fault = s.fault := rfl
@[simp] theorem State.setV_debt (s : State) (x : Reg) (b : Byte) : (s.setV x b).debt = s.debt := rfl
@[simp] theorem State.setV_wtimer (s : State) (x : Reg) (b : Byte) : (s.setV x b).wtimer = s.wtimer := rfl
@[simp] theorem State.setV_present (s : State) (x : Reg) (b : Byte) : (s.setV x b).present = s.present := rfl
@[simp] theorem State.setV_tone (s : State) (x : Reg) (b : Byte) : (s.setV x b).tone = s.tone := rfl
@[simp] theorem State.setV_sleeping (s : State) (x : Reg) (b : Byte) : (s.setV x b).sleeping = s.sleeping := rfl
@[simp] theorem State.setV_run (s : State) (x : Reg) (b : Byte) : (s.setV x b).run = s.run := rfl
@[simp] theorem State.setV_cfg (s : State) (x : Reg) (b : Byte) : (s.setV x b).cfg = s.cfg := rfl
@[simp] theorem State.setV_inputs (s : State) (x : Reg) (b : Byte) : (s.setV x b).inputs = s.inputs := rfl
@[simp] theorem State.setV_draws (s : State) (x : Reg) (b : Byte) : (s.setV x b).draws = s.draws := rfl
@[simp] theorem State.setV_clockReads (s : State) (x : Reg) (b : Byte) : (s.setV x b).clockReads = s.clockReads := rfl

/-! ## State.setI -/

@[simp] theorem State.setI_V (s : State) (w : Word) : (s.setI w).V = s.V := rfl
@[simp] theorem State.setI_I (s : State) (w : Word) : (s.setI w).I = w := rfl
@[simp] theorem State.setI_pc (s : State) (w : Word) : (s.setI w).pc = s.pc := rfl
@[simp] theorem State.setI_SP (s : State) (w : Word) : (s.setI w).SP = s.SP := rfl
@[simp] theorem State.setI_stack (s : State) (w : Word) : (s.setI w).stack = s.stack := rfl
@[simp] theorem State.setI_mem (s : State) (w : Word) : (s.setI w).mem = s.mem := rfl
@[simp] theorem State.setI_DT (s : State) (w : Word) : (s.setI w).DT = s.DT := rfl
@[simp] theorem State.setI_ST (s : State) (w : Word) : (s.setI w).ST = s.ST := rfl
@[simp] theorem State.setI_keypad (s : State) (w : Word) : (s.setI w).keypad = s.keypad := rfl
@[simp] theorem State.setI_keyReleased (s : State) (w : Word) : (s.setI w).keyReleased = s.keyReleased := rfl
@[simp] theorem State.setI_fb (s : State) (w : Word) : (s.setI w).fb = s.fb := rfl
@[simp] theorem State.setI_cycleCount (s : State) (w : Word) : (s.setI w).cycleCount = s.cycleCount := rfl
@[simp] theorem State.setI_fault (s : State) (w : Word) : (s.setI w).fault = s.fault := rfl
@[simp] theorem State.setI_debt (s : State) (w : Word) : (s.setI w).debt = s.debt := rfl
@[simp] theorem State.setI_wtimer (s : State) (w : Word) : (s.setI w).wtimer = s.wtimer := rfl
@[simp] theorem State.setI_present (s : State) (w : Word) : (s.setI w).present = s.present := rfl
@[simp] theorem State.setI_tone (s : State) (w : Word) : (s.setI w).tone = s.tone := rfl
@[simp] theorem State.setI_sleeping (s : State) (w : Word) : (s.setI w).sleeping = s.sleeping := rfl
@[simp] theorem State.setI_run (s : State) (w : Word) : (s.setI w).run = s.run := rfl
@[simp] theorem State.setI_cfg (s : State) (w : Word) : (s.setI w).cfg = s.cfg := rfl
@[simp] theorem State.setI_inputs (s : State) (w : Word) : (s.setI w).inputs = s.inputs := rfl
@[simp] theorem State.setI_draws (s : State) (w : Word) : (s.setI w).draws = s.draws := rfl
@[simp] theorem State.setI_clockReads (s : State) (w : Word) : (s.setI w).clockReads = s.clockReads := rfl

/-! ## State.setPc -/

@[simp] theorem State.setPc_V (s : State) (w : Word) : (s.setPc w).V = s.V := rfl
@[simp] theorem State.setPc_I (s : State) (w : Word) : (s.setPc w).I = s.I := rfl
@[simp] theorem State.setPc_pc (s : State) (w : Word) : (s.setPc w).pc = w := rfl
@[simp] theorem State.setPc_SP (s : State) (w : Word) : (s.setPc w).SP = s.SP := rfl
@[simp] theorem State.setPc_stack (s : State) (w : Word) : (s.setPc w).stack = s.stack := rfl
@[simp] theorem State.setPc_mem (s : State) (w : Word) : (s.setPc w).mem = s.mem := rfl
@[simp] theorem State.setPc_DT (s : State) (w : Word) : (s.setPc w).DT = s.DT := rfl
@[simp] theorem State.setPc_ST (s : State) (w : Word) : (s.setPc w).ST = s.ST := rfl
@[simp] theorem State.setPc_keypad (s : State) (w : Word) : (s.setPc w).keypad = s.keypad := rfl
@[simp] theorem State.setPc_keyReleased (s : State) (w : Word) : (s.setPc w).keyReleased = s.keyReleased := rfl
@[simp] theorem State.setPc_fb (s : State) (w : Word) : (s.setPc w).fb = s.fb := rfl
@[simp] theorem State.setPc_cycleCount (s : State) (w : Word) : (s.setPc w).cycleCount = s.cycleCount := rfl
@[simp] theorem State.setPc_fault (s : State) (w : Word) : (s.setPc w).fault = s.fault := rfl
@[simp] theorem State.setPc_debt (s : State) (w : Word) : (s.setPc w).debt = s.debt := rfl
@[simp] theorem State.setPc_wtimer (s : State) (w : Word) : (s.setPc w).wtimer = s.wtimer := rfl
@[simp] theorem State.setPc_present (s : State) (w : Word) : (s.setPc w).present = s.present := rfl
@[simp] theorem State.setPc_tone (s : State) (w : Word) : (s.setPc w).tone = s.tone := rfl
@[simp] theorem State.setPc_sleeping (s : State) (w : Word) : (s.setPc w).sleeping = s.sleeping := rfl
@[simp] theorem State.setPc_run (s : State) (w : Word) : (s.setPc w).run = s.run := rfl
@[simp] theorem State.setPc_cfg (s : State) (w : Word) : (s.setPc w).cfg = s.cfg := rfl
@[simp] theorem State.setPc_inputs (s : State) (w : Word) : (s.setPc w).inputs = s.inputs := rfl
@[simp] theorem State.setPc_draws (s : State) (w : Word) : (s.setPc w).draws = s.draws := rfl
@[simp] theorem State.setPc_clockReads (s : State) (w : Word) : (s.setPc w).clockReads = s.clockReads := rfl

/-! ## State.setDT -/

@[simp] theorem State.setDT_V (s : State) (b : Byte) : (s.setDT b).V = s.V := rfl
@[simp] theorem State.setDT_I (s : State) (b : Byte) : (s.setDT b).I = s.I := rfl
@[simp] theorem State.setDT_pc (s : State) (b : Byte) : (s.setDT b).pc = s.pc := rfl
@[simp] theorem State.setDT_SP (s : State) (b : Byte) : (s.setDT b).SP = s.SP := rfl
@[simp] theorem State.setDT_stack (s : State) (b : Byte) : (s.setDT b).stack = s.stack := rfl
@[simp] theorem State.setDT_mem (s : State) (b : Byte) : (s.setDT b).mem = s.mem := rfl
@[simp] theorem State.setDT_DT (s : State) (b : Byte) : (s.setDT b).DT = b := rfl
@[simp] theorem State.setDT_ST (s : State) (b : Byte) : (s.setDT b).ST = s.ST := rfl
@[simp] theorem State.setDT_keypad (s : State) (b : Byte) : (s.setDT b).keypad = s.keypad := rfl
@[simp] theorem State.setDT_keyReleased (s : State) (b : Byte) : (s.setDT b).keyReleased = s.keyReleased := rfl
@[simp] theorem State.setDT_fb (s : State) (b : Byte) : (s.setDT b).fb = s.fb := rfl
@[simp] theorem State.setDT_cycleCount (s : State) (b : Byte) : (s.setDT b).cycleCount = s.cycleCount := rfl
@[simp] theorem State.setDT_fault (s : State) (b : Byte) : (s.setDT b).fault = s.fault := rfl
@[simp] theorem State.setDT_debt (s : State) (b : Byte) : (s.setDT b).debt = s.debt := rfl
@[simp] theorem State.setDT_wtimer (s : State) (b : Byte) : (s.setDT b).wtimer = s.wtimer := rfl
@[simp] theorem State.setDT_present (s : State) (b : Byte) : (s.setDT b).present = s.present := rfl
@[simp] theorem State.setDT_tone (s : State) (b : Byte) : (s.setDT b).tone = s.tone := rfl
@[simp] theorem State.setDT_sleeping (s : State) (b : Byte) : (s.setDT b).sleeping = s.sleeping := rfl
@[simp] theorem State.setDT_run (s : State) (b : Byte) : (s.setDT b).run = s.run := rfl
@[simp] theorem State.setDT_cfg (s : State) (b : Byte) : (s.setDT b).cfg = s.cfg := rfl
@[simp] theorem State.setDT_inputs (s : State) (b : Byte) : (s.setDT b).inputs = s.inputs := rfl
@[simp] theorem State.setDT_draws (s : State) (b : Byte) : (s.setDT b).draws = s.draws := rfl
@[simp] theorem State.setDT_clockReads (s : State) (b : Byte) : (s.setDT b).clockReads = s.clockReads := rfl

/-! ## State.setST -/

@[simp] theorem State.setST_V (s : State) (b : Byte) : (s.setST b).V = s.V := rfl
@[simp] theorem State.setST_I (s : State) (b : Byte) : (s.setST b).I = s.I := rfl
@[simp] theorem State.setST_pc (s : State) (b : Byte) : (s.setST b).pc = s.pc := rfl
@[simp] theorem State.setST_SP (s : State) (b : Byte) : (s.setST b).SP = s.SP := rfl
@[simp] theorem State.setST_stack (s : State) (b : Byte) : (s.setST b).stack = s.stack := rfl
@[simp] theorem State.setST_mem (s : State) (b : Byte) : (s.setST b).mem = s.mem := rfl
@[simp] theorem State.setST_DT (s : State) (b : Byte) : (s.setST b).DT = s.DT := rfl
@[simp] theorem State.setST_ST (s : State) (b : Byte) : (s.setST b).ST = b := rfl
@[simp] theorem State.setST_keypad (s : State) (b : Byte) : (s.setST b).keypad = s.keypad := rfl
@[simp] theorem State.setST_keyReleased (s : State) (b : Byte) : (s.setST b).keyReleased = s.keyReleased := rfl
@[simp] theorem State.setST_fb (s : State) (b : Byte) : (s.setST b).fb = s.fb := rfl
@[simp] theorem State.setST_cycleCount (s : State) (b : Byte) : (s.setST b).cycleCount = s.cycleCount := rfl
@[simp] theorem State.setST_fault (s : State) (b : Byte) : (s.setST b).fault = s.fault := rfl
@[simp] theorem State.setST_debt (s : State) (b : Byte) : (s.setST b).debt = s.debt := rfl
@[simp] theorem State.setST_wtimer (s : State) (b : Byte) : (s.setST b).wtimer = s.wtimer := rfl
@[simp] theorem State.setST_present (s : State) (b : Byte) : (s.setST b).present = s.present := rfl
@[simp] theorem State.setST_tone (s : State) (b : Byte) : (s.setST b).tone = s.tone := rfl
@[simp] theorem State.setST_sleeping (s : State) (b : Byte) : (s.setST b).sleeping = s.sleeping := rfl
@[simp] theorem State.setST_run (s : State) (b : Byte) : (s.setST b).run = s.run := rfl
@[simp] theorem State.setST_cfg (s : State) (b : Byte) : (s.setST b).cfg = s.cfg := rfl
@[simp] theorem State.setST_inputs (s : State) (b : Byte) : (s.setST b).inputs = s.inputs := rfl
@[simp] theorem State.setST_draws (s : State) (b : Byte) : (s.setST b).draws = s.draws := rfl
@[simp] theorem State.setST_clockReads (s : State) (b : Byte) : (s.setST b).clockReads = s.clockReads := rfl

/-! ## State.writeByte -/

@[simp] theorem State.writeByte_V (s : State) (a : Nat) (b : Byte) : (s.writeByte a b).V = s.V := rfl
@[simp] theorem State.writeByte_I (s : State) (a : Nat) (b : Byte) : (s.writeByte a b).I = s.I := rfl
@[simp] theorem State.writeByte_pc (s : State) (a : Nat) (b : Byte) : (s.writeByte a b).pc = s.pc := rfl
@[simp] theorem State.writeByte_SP (s : State) (a : Nat) (b : Byte) : (s.writeByte a b).SP = s.SP := rfl
@[simp] theorem State.writeByte_stack (s : State) (a : Nat) (b : Byte) : (s.writeByte a b).stack = s.stack := rfl
@[simp] theorem State.writeByte_mem (s : State) (a : Nat) (b : Byte) : (s.writeByte a b).mem = Memory.write s.mem a b := rfl
@[simp] theorem State.writeByte_DT (s : State) (a : Nat) (b : Byte) : (s.writeByte a b).DT = s.DT := rfl
@[simp] theorem State.writeByte_ST (s : State) (a : Nat) (b : Byte) : (s.writeByte a b).ST = s.ST := rfl
@[simp] theorem State.writeByte_keypad (s : State) (a : Nat) (b : Byte) : (s.writeByte a b).keypad = s.keypad := rfl
@[simp] theorem State.writeByte_keyReleased (s : State) (a : Nat) (b : Byte) : (s.writeByte a b).keyReleased = s.keyReleased := rfl
@[simp] theorem State.writeByte_fb (s : State) (a : Nat) (b : Byte) : (s.writeByte a b).fb = s.fb := rfl
@[simp] theorem State.writeByte_cycleCount (s : State) (a : Nat) (b : Byte) : (s.writeByte a b).cycleCount = s.cycleCount := rfl
@[simp] theorem State.writeByte_fault (s : State) (a : Nat) (b : Byte) : (s.writeByte a b).fault = s.fault := rfl
@[simp] theorem State.writeByte_debt (s : State) (a : Nat) (b : Byte) : (s.writeByte a b).debt = s.debt := rfl
@[simp] theorem State.writeByte_wtimer (s : State) (a : Nat) (b : Byte) : (s.writeByte a b).wtimer = s.wtimer := rfl
@[simp] theorem State.writeByte_present (s : State) (a : Nat) (b : Byte) : (s.writeByte a b).present = s.present := rfl
@[simp] theorem State.writeByte_tone (s : State) (a : Nat) (b : Byte) : (s.writeByte a b).tone = s.tone := rfl
@[simp] theorem State.writeByte_sleeping (s : State) (a : Nat) (b : Byte) : (s.writeByte a b).sleeping = s.sleeping := rfl
@[simp] theorem State.writeByte_run (s : State) (a : Nat) (b : Byte) : (s.writeByte a b).run = s.run := rfl
@[simp] theorem State.writeByte_cfg (s : State) (a : Nat) (b : Byte) : (s.writeByte a b).cfg = s.cfg := rfl
@[simp] theorem State.writeByte_inputs (s : State) (a : Nat) (b : Byte) : (s.writeByte a b).inputs = s.inputs := rfl
@[simp] theorem State.writeByte_draws (s : State) (a : Nat) (b : Byte) : (s.writeByte a b).draws = s.draws := rfl
@[simp] theorem State.writeByte_clockReads (s : State) (a : Nat) (b : Byte) : (s.writeByte a b).clockReads = s.clockReads := rfl

/-! ## State.setKey -/

@[simp] theorem State.setKey_V (s : State) (k : Key) (h : Bool) : (s.setKey k h).V = s.V := rfl
@[simp] theorem State.setKey_I (s : State) (k : Key) (h : Bool) : (s.setKey k h).I = s.I := rfl
@[simp] theorem State.setKey_pc (s : State) (k : Key) (h : Bool) : (s.setKey k h).pc = s.pc := rfl
@[simp] theorem State.setKey_SP (s : State) (k : Key) (h : Bool) : (s.setKey k h).SP = s.SP := rfl
@[simp] theorem State.setKey_stack (s : State) (k : Key) (h : Bool) : (s.setKey k h).stack = s.stack := rfl
@[simp] theorem State.setKey_mem (s : State) (k : Key) (h : Bool) : (s.setKey k h).mem = s.mem := rfl
@[simp] theorem State.setKey_DT (s : State) (k : Key) (h : Bool) : (s.setKey k h).DT = s.DT := rfl
@[simp] theorem State.setKey_ST (s : State) (k : Key) (h : Bool) : (s.setKey k h).ST = s.ST := rfl
@[simp] theorem State.setKey_keypad (s : State) (k : Key) (h : Bool) : (s.setKey k h).keypad = s.keypad.set k h := rfl
@[simp] theorem State.setKey_keyReleased (s : State) (k : Key) (h : Bool) : (s.setKey k h).keyReleased = s.keyReleased := rfl
@[simp] theorem State.setKey_fb (s : State) (k : Key) (h : Bool) : (s.setKey k h).fb = s.fb := rfl
@[simp] theorem State.setKey_cycleCount (s : State) (k : Key) (h : Bool) : (s.setKey k h).cycleCount = s.cycleCount := rfl
@[simp] theorem State.setKey_fault (s : State) (k : Key) (h : Bool) : (s.setKey k h).fault = s.fault := rfl
@[simp] theorem State.setKey_debt (s : State) (k : Key) (h : Bool) : (s.setKey k h).debt = s.debt := rfl
@[simp] theorem State.setKey_wtimer (s : State) (k : Key) (h : Bool) : (s.setKey k h).wtimer = s.wtimer := rfl
@[simp] theorem State.setKey_present (s : State) (k : Key) (h : Bool) : (s.setKey k h).present = s.present := rfl
@[simp] theorem State.setKey_tone (s : State) (k : Key) (h : Bool) : (s.setKey k h).tone = s.tone := rfl
@[simp] theorem State.setKey_sleeping (s : State) (k : Key) (h : Bool) : (s.setKey k h).sleeping = s.sleeping := rfl
@[simp] theorem State.setKey_run (s : State) (k : Key) (h : Bool) : (s.setKey k h).run = s.run := rfl
@[simp] theorem State.setKey_cfg (s : State) (k : Key) (h : Bool) : (s.setKey k h).cfg = s.cfg := rfl
@[simp] theorem State.setKey_inputs (s : State) (k : Key) (h : Bool) : (s.setKey k h).inputs = s.inputs := rfl
@[simp] theorem State.setKey_draws (s : State) (k : Key) (h : Bool) : (s.setKey k h).draws = s.draws := rfl
@[simp] theorem State.setKey_clockReads (s : State) (k : Key) (h : Bool) : (s.setKey k h).clockReads = s.clockReads := rfl

/-! ## State.push -/

@[simp] theorem State.push_V (s : State) (k : Fin 16) (w : Word) : (s.push k w).V = s.V := rfl
@[simp] theorem State.push_I (s : State) (k : Fin 16) (w : Word) : (s.push k w).I = s.I := rfl
@[simp] theorem State.push_pc (s : State) (k : Fin 16) (w : Word) : (s.push k w).pc = s.pc := rfl
@[simp] theorem State.push_SP (s : State) (k : Fin 16) (w : Word) : (s.push k w).SP = s.SP + 1 := rfl
@[simp] theorem State.push_stack (s : State) (k : Fin 16) (w : Word) : (s.push k w).stack = s.stack.set k w := rfl
@[simp] theorem State.push_mem (s : State) (k : Fin 16) (w : Word) : (s.push k w).mem = s.mem := rfl
@[simp] theorem State.push_DT (s : State) (k : Fin 16) (w : Word) : (s.push k w).DT = s.DT := rfl
@[simp] theorem State.push_ST (s : State) (k : Fin 16) (w : Word) : (s.push k w).ST = s.ST := rfl
@[simp] theorem State.push_keypad (s : State) (k : Fin 16) (w : Word) : (s.push k w).keypad = s.keypad := rfl
@[simp] theorem State.push_keyReleased (s : State) (k : Fin 16) (w : Word) : (s.push k w).keyReleased = s.keyReleased := rfl
@[simp] theorem State.push_fb (s : State) (k : Fin 16) (w : Word) : (s.push k w).fb = s.fb := rfl
@[simp] theorem State.push_cycleCount (s : State) (k : Fin 16) (w : Word) : (s.push k w).cycleCount = s.cycleCount := rfl
@[simp] theorem State.push_fault (s : State) (k : Fin 16) (w : Word) : (s.push k w).fault = s.fault := rfl
@[simp] theorem State.push_debt (s : State) (k : Fin 16) (w : Word) : (s.push k w).debt = s.debt := rfl
@[simp] theorem State.push_wtimer (s : State) (k : Fin 16) (w : Word) : (s.push k w).wtimer = s.wtimer := rfl
@[simp] theorem State.push_present (s : State) (k : Fin 16) (w : Word) : (s.push k w).present = s.present := rfl
@[simp] theorem State.push_tone (s : State) (k : Fin 16) (w : Word) : (s.push k w).tone = s.tone := rfl
@[simp] theorem State.push_sleeping (s : State) (k : Fin 16) (w : Word) : (s.push k w).sleeping = s.sleeping := rfl
@[simp] theorem State.push_run (s : State) (k : Fin 16) (w : Word) : (s.push k w).run = s.run := rfl
@[simp] theorem State.push_cfg (s : State) (k : Fin 16) (w : Word) : (s.push k w).cfg = s.cfg := rfl
@[simp] theorem State.push_inputs (s : State) (k : Fin 16) (w : Word) : (s.push k w).inputs = s.inputs := rfl
@[simp] theorem State.push_draws (s : State) (k : Fin 16) (w : Word) : (s.push k w).draws = s.draws := rfl
@[simp] theorem State.push_clockReads (s : State) (k : Fin 16) (w : Word) : (s.push k w).clockReads = s.clockReads := rfl

/-! ## State.popTo -/

@[simp] theorem State.popTo_V (s : State) (w : Word) : (s.popTo w).V = s.V := rfl
@[simp] theorem State.popTo_I (s : State) (w : Word) : (s.popTo w).I = s.I := rfl
@[simp] theorem State.popTo_pc (s : State) (w : Word) : (s.popTo w).pc = w := rfl
@[simp] theorem State.popTo_SP (s : State) (w : Word) : (s.popTo w).SP = s.SP - 1 := rfl
@[simp] theorem State.popTo_stack (s : State) (w : Word) : (s.popTo w).stack = s.stack := rfl
@[simp] theorem State.popTo_mem (s : State) (w : Word) : (s.popTo w).mem = s.mem := rfl
@[simp] theorem State.popTo_DT (s : State) (w : Word) : (s.popTo w).DT = s.DT := rfl
@[simp] theorem State.popTo_ST (s : State) (w : Word) : (s.popTo w).ST = s.ST := rfl
@[simp] theorem State.popTo_keypad (s : State) (w : Word) : (s.popTo w).keypad = s.keypad := rfl
@[simp] theorem State.popTo_keyReleased (s : State) (w : Word) : (s.popTo w).keyReleased = s.keyReleased := rfl
@[simp] theorem State.popTo_fb (s : State) (w : Word) : (s.popTo w).fb = s.fb := rfl
@[simp] theorem State.popTo_cycleCount (s : State) (w : Word) : (s.popTo w).cycleCount = s.cycleCount := rfl
@[simp] theorem State.popTo_fault (s : State) (w : Word) : (s.popTo w).fault = s.fault := rfl
@[simp] theorem State.popTo_debt (s : State) (w : Word) : (s.popTo w).debt = s.debt := rfl
@[simp] theorem State.popTo_wtimer (s : State) (w : Word) : (s.popTo w).wtimer = s.wtimer := rfl
@[simp] theorem State.popTo_present (s : State) (w : Word) : (s.popTo w).present = s.present := rfl
@[simp] theorem State.popTo_tone (s : State) (w : Word) : (s.popTo w).tone = s.tone := rfl
@[simp] theorem State.popTo_sleeping (s : State) (w : Word) : (s.popTo w).sleeping = s.sleeping := rfl
@[simp] theorem State.popTo_run (s : State) (w : Word) : (s.popTo w).run = s.run := rfl
@[simp] theorem State.popTo_cfg (s : State) (w : Word) : (s.popTo w).cfg = s.cfg := rfl
@[simp] theorem State.popTo_inputs (s : State) (w : Word) : (s.popTo w).inputs = s.inputs := rfl
@[simp] theorem State.popTo_draws (s : State) (w : Word) : (s.popTo w).draws = s.draws := rfl
@[simp] theorem State.popTo_clockReads (s : State) (w : Word) : (s.popTo w).clockReads = s.clockReads := rfl

/-! ## State.display -/

@[simp] theorem State.display_V (s : State) (f : Framebuffer) : (s.display f).V = s.V := rfl
@[simp] theorem State.display_I (s : State) (f : Framebuffer) : (s.display f).I = s.I := rfl
@[simp] theorem State.display_pc (s : State) (f : Framebuffer) : (s.display f).pc = s.pc := rfl
@[simp] theorem State.display_SP (s : State) (f : Framebuffer) : (s.display f).SP = s.SP := rfl
@[simp] theorem State.display_stack (s : State) (f : Framebuffer) : (s.display f).stack = s.stack := rfl
@[simp] theorem State.display_mem (s : State) (f : Framebuffer) : (s.display f).mem = s.mem := rfl
@[simp] theorem State.display_DT (s : State) (f : Framebuffer) : (s.display f).DT = s.DT := rfl
@[simp] theorem State.display_ST (s : State) (f : Framebuffer) : (s.display f).ST = s.ST := rfl
@[simp] theorem State.display_keypad (s : State) (f : Framebuffer) : (s.display f).keypad = s.keypad := rfl
@[simp] theorem State.display_keyReleased (s : State) (f : Framebuffer) : (s.display f).keyReleased = s.keyReleased := rfl
@[simp] theorem State.display_fb (s : State) (f : Framebuffer) : (s.display f).fb = f := rfl
@[simp] theorem State.display_cycleCount (s : State) (f : Framebuffer) : (s.display f).cycleCount = s.cycleCount := rfl
@[simp] theorem State.display_fault (s : State) (f : Framebuffer) : (s.display f).fault = s.fault := rfl
@[simp] theorem State.display_debt (s : State) (f : Framebuffer) : (s.display f).debt = s.debt := rfl
@[simp] theorem State.display_wtimer (s : State) (f : Framebuffer) : (s.display f).wtimer = s.wtimer := rfl
@[simp] theorem State.display_present (s : State) (f : Framebuffer) : (s.display f).present = true := rfl
@[simp] theorem State.display_tone (s : State) (f : Framebuffer) : (s.display f).tone = s.tone := rfl
@[simp] theorem State.display_sleeping (s : State) (f : Framebuffer) : (s.display f).sleeping = s.sleeping := rfl
@[simp] theorem State.display_run (s : State) (f : Framebuffer) : (s.display f).run = s.run := rfl
@[simp] theorem State.display_cfg (s : State) (f : Framebuffer) : (s.display f).cfg = s.cfg := rfl
@[simp] theorem State.display_inputs (s : State) (f : Framebuffer) : (s.display f).inputs = s.inputs := rfl
@[simp] theorem State.display_draws (s : State) (f : Framebuffer) : (s.display f).draws = s.draws := rfl
@[simp] theorem State.display_clockReads (s : State) (f : Framebuffer) : (s.display f).clockReads = s.clockReads := rfl

/-! ## enterFault -/

@[simp] theorem enterFault_V (s : State) (r : FaultRecord) : (enterFault s r).V = s.V := rfl
@[simp] theorem enterFault_I (s : State) (r : FaultRecord) : (enterFault s r).I = s.I := rfl
@[simp] theorem enterFault_pc (s : State) (r : FaultRecord) : (enterFault s r).pc = s.pc := rfl
@[simp] theorem enterFault_SP (s : State) (r : FaultRecord) : (enterFault s r).SP = s.SP := rfl
@[simp] theorem enterFault_stack (s : State) (r : FaultRecord) : (enterFault s r).stack = s.stack := rfl
@[simp] theorem enterFault_mem (s : State) (r : FaultRecord) : (enterFault s r).mem = s.mem := rfl
@[simp] theorem enterFault_DT (s : State) (r : FaultRecord) : (enterFault s r).DT = s.DT := rfl
@[simp] theorem enterFault_ST (s : State) (r : FaultRecord) : (enterFault s r).ST = s.ST := rfl
@[simp] theorem enterFault_keypad (s : State) (r : FaultRecord) : (enterFault s r).keypad = s.keypad := rfl
@[simp] theorem enterFault_keyReleased (s : State) (r : FaultRecord) : (enterFault s r).keyReleased = s.keyReleased := rfl
@[simp] theorem enterFault_fb (s : State) (r : FaultRecord) : (enterFault s r).fb = s.fb := rfl
@[simp] theorem enterFault_cycleCount (s : State) (r : FaultRecord) : (enterFault s r).cycleCount = s.cycleCount := rfl
@[simp] theorem enterFault_fault (s : State) (r : FaultRecord) : (enterFault s r).fault = some r := rfl
@[simp] theorem enterFault_debt (s : State) (r : FaultRecord) : (enterFault s r).debt = s.debt := rfl
@[simp] theorem enterFault_wtimer (s : State) (r : FaultRecord) : (enterFault s r).wtimer = s.wtimer := rfl
@[simp] theorem enterFault_present (s : State) (r : FaultRecord) : (enterFault s r).present = false := rfl
@[simp] theorem enterFault_tone (s : State) (r : FaultRecord) : (enterFault s r).tone = s.tone := rfl
@[simp] theorem enterFault_sleeping (s : State) (r : FaultRecord) : (enterFault s r).sleeping = s.sleeping := rfl
@[simp] theorem enterFault_run (s : State) (r : FaultRecord) : (enterFault s r).run = s.run := rfl
@[simp] theorem enterFault_cfg (s : State) (r : FaultRecord) : (enterFault s r).cfg = s.cfg := rfl
@[simp] theorem enterFault_inputs (s : State) (r : FaultRecord) : (enterFault s r).inputs = s.inputs := rfl
@[simp] theorem enterFault_draws (s : State) (r : FaultRecord) : (enterFault s r).draws = s.draws := rfl
@[simp] theorem enterFault_clockReads (s : State) (r : FaultRecord) : (enterFault s r).clockReads = s.clockReads := rfl

end Sys2Proof.Machine
end

