-- ==== Sys2Proof/Laws/Registers.lean ====
section
/-! SUPPORT. What the accessors read after an update: registers, keys, the stack, cells, bytes. -/

namespace Sys2Proof.Machine

/-! ## General registers (R20, R172) -/

@[simp] theorem State.getV_setV_self (s : State) (x : Reg) (b : Byte) : (s.setV x b).getV x = b := by
  simp [State.getV, State.setV]

theorem State.getV_setV_of_ne (s : State) {x r : Reg} (b : Byte) (h : r ≠ x) : (s.setV x b).getV r = s.getV r := by
  have hv : x.val ≠ r.val := fun hc => h (Fin.ext hc.symm)
  simp [State.getV, State.setV, hv]

/-- A register after one is written. -/
theorem State.getV_setV (s : State) (x r : Reg) (b : Byte) : (s.setV x b).getV r = if r = x then b else s.getV r := by
  split
  · next h => rw [h, State.getV_setV_self]
  · next h => exact State.getV_setV_of_ne s b h

/-- A register after a result and a flag are written: the flag wins in VF (R172). -/
theorem State.getV_setResultFlag (s : State) (x r : Reg) (b : Byte) (p : Bool) :
    (s.setResultFlag x b p).getV r = if r = vf then flagByte p else if r = x then b else s.getV r := by
  simp only [State.setResultFlag, State.getV_setV]

/-- Writing a result and a flag changes the general registers alone. -/
theorem State.setResultFlag_eq (s : State) (x : Reg) (b : Byte) (p : Bool) :
    s.setResultFlag x b p = { s with V := (s.V.set x b).set vf (flagByte p) } := rfl

/-- Two states with the same registers have the same vector of them. -/
theorem State.V_ext {s t : State} (h : ∀ r : Reg, t.getV r = s.getV r) : t.V = s.V := by
  apply Vector.ext
  intro k hk
  exact h ⟨k, hk⟩

/-! ## Keys and the stack (R24, R27) -/

/-- A key's flag after one is written. -/
theorem State.getKey_setKey (s : State) (k j : Key) (b : Bool) :
    (s.setKey k b).getKey j = if j = k then b else s.getKey j := by
  simp [State.getKey, State.setKey, Vector.getElem_set, Fin.ext_iff, eq_comm]

/-- A stack entry after a push. -/
theorem State.stackEntry_push (s : State) (k j : Fin 16) (w : Word) :
    (s.push k w).stackEntry j = if j = k then w else s.stackEntry j := by
  simp [State.stackEntry, State.push, Vector.getElem_set, Fin.ext_iff, eq_comm]

/-! ## Cells (R29) -/

/-- A cell after one is written. -/
theorem Framebuffer.cell_setCell (f : Framebuffer) (row row' : Fin 32) (col col' : Fin 64) (b : Bool) :
    Framebuffer.cell (Framebuffer.setCell f row col b) row' col'
      = if row' = row ∧ col' = col then b else Framebuffer.cell f row' col' := by
  unfold Framebuffer.cell Framebuffer.setCell
  by_cases hr : row' = row
  · subst hr
    simp [Vector.getElem_set, Fin.ext_iff, eq_comm]
  · have hv : row.val ≠ row'.val := fun hc => hr (Fin.ext hc.symm)
    simp [hv, hr]

/-- The cleared grid has no cell ON (R221). -/
@[simp] theorem Framebuffer.cell_allOff (row : Fin 32) (col : Fin 64) :
    Framebuffer.cell Framebuffer.allOff row col = false := by
  simp [Framebuffer.cell, Framebuffer.allOff]

/-- Two grids with the same cells are the same. -/
theorem Framebuffer.ext_cell {f g : Framebuffer}
    (h : ∀ (row : Fin 32) (col : Fin 64), Framebuffer.cell f row col = Framebuffer.cell g row col) : f = g := by
  apply Vector.ext
  intro r hr
  apply Vector.ext
  intro c hc
  exact h ⟨r, hr⟩ ⟨c, hc⟩

/-! ## Bytes (R60, R65) -/

/-- A byte after one is written in range. -/
theorem State.readByte_writeByte (s : State) {a : Nat} (a' : Nat) (b : Byte) (hwf : Memory.wf s.mem = true)
    (ha : a < 4096) : (s.writeByte a b).readByte a' = if a' = a then b else s.readByte a' :=
  Memory.read_write hwf ha

/-- Every other byte is left alone, whatever the form of memory. -/
theorem State.readByte_writeByte_of_ne (s : State) {a a' : Nat} (b : Byte) (h : a' ≠ a) :
    (s.writeByte a b).readByte a' = s.readByte a' :=
  Memory.read_write_of_ne h

/-! ## An accessor after an update of something else -/

@[simp] theorem State.readByte_setV (s : State) (x : Reg) (b : Byte) (a : Nat) :
    (s.setV x b).readByte a = s.readByte a := rfl
@[simp] theorem State.getKey_setV (s : State) (x : Reg) (b : Byte) (k : Key) :
    (s.setV x b).getKey k = s.getKey k := rfl
@[simp] theorem State.stackEntry_setV (s : State) (x : Reg) (b : Byte) (k : Fin 16) :
    (s.setV x b).stackEntry k = s.stackEntry k := rfl
@[simp] theorem State.getV_setI (s : State) (w : Word) (r : Reg) :
    (s.setI w).getV r = s.getV r := rfl
@[simp] theorem State.readByte_setI (s : State) (w : Word) (a : Nat) :
    (s.setI w).readByte a = s.readByte a := rfl
@[simp] theorem State.getKey_setI (s : State) (w : Word) (k : Key) :
    (s.setI w).getKey k = s.getKey k := rfl
@[simp] theorem State.stackEntry_setI (s : State) (w : Word) (k : Fin 16) :
    (s.setI w).stackEntry k = s.stackEntry k := rfl
@[simp] theorem State.getV_setPc (s : State) (w : Word) (r : Reg) :
    (s.setPc w).getV r = s.getV r := rfl
@[simp] theorem State.readByte_setPc (s : State) (w : Word) (a : Nat) :
    (s.setPc w).readByte a = s.readByte a := rfl
@[simp] theorem State.getKey_setPc (s : State) (w : Word) (k : Key) :
    (s.setPc w).getKey k = s.getKey k := rfl
@[simp] theorem State.stackEntry_setPc (s : State) (w : Word) (k : Fin 16) :
    (s.setPc w).stackEntry k = s.stackEntry k := rfl
@[simp] theorem State.getV_setDT (s : State) (b : Byte) (r : Reg) :
    (s.setDT b).getV r = s.getV r := rfl
@[simp] theorem State.readByte_setDT (s : State) (b : Byte) (a : Nat) :
    (s.setDT b).readByte a = s.readByte a := rfl
@[simp] theorem State.getKey_setDT (s : State) (b : Byte) (k : Key) :
    (s.setDT b).getKey k = s.getKey k := rfl
@[simp] theorem State.stackEntry_setDT (s : State) (b : Byte) (k : Fin 16) :
    (s.setDT b).stackEntry k = s.stackEntry k := rfl
@[simp] theorem State.getV_setST (s : State) (b : Byte) (r : Reg) :
    (s.setST b).getV r = s.getV r := rfl
@[simp] theorem State.readByte_setST (s : State) (b : Byte) (a : Nat) :
    (s.setST b).readByte a = s.readByte a := rfl
@[simp] theorem State.getKey_setST (s : State) (b : Byte) (k : Key) :
    (s.setST b).getKey k = s.getKey k := rfl
@[simp] theorem State.stackEntry_setST (s : State) (b : Byte) (k : Fin 16) :
    (s.setST b).stackEntry k = s.stackEntry k := rfl
@[simp] theorem State.getV_writeByte (s : State) (i : Nat) (b : Byte) (r : Reg) :
    (s.writeByte i b).getV r = s.getV r := rfl
@[simp] theorem State.getKey_writeByte (s : State) (i : Nat) (b : Byte) (k : Key) :
    (s.writeByte i b).getKey k = s.getKey k := rfl
@[simp] theorem State.stackEntry_writeByte (s : State) (i : Nat) (b : Byte) (k : Fin 16) :
    (s.writeByte i b).stackEntry k = s.stackEntry k := rfl
@[simp] theorem State.getV_setKey (s : State) (j : Key) (h : Bool) (r : Reg) :
    (s.setKey j h).getV r = s.getV r := rfl
@[simp] theorem State.readByte_setKey (s : State) (j : Key) (h : Bool) (a : Nat) :
    (s.setKey j h).readByte a = s.readByte a := rfl
@[simp] theorem State.stackEntry_setKey (s : State) (j : Key) (h : Bool) (k : Fin 16) :
    (s.setKey j h).stackEntry k = s.stackEntry k := rfl
@[simp] theorem State.getV_push (s : State) (j : Fin 16) (w : Word) (r : Reg) :
    (s.push j w).getV r = s.getV r := rfl
@[simp] theorem State.readByte_push (s : State) (j : Fin 16) (w : Word) (a : Nat) :
    (s.push j w).readByte a = s.readByte a := rfl
@[simp] theorem State.getKey_push (s : State) (j : Fin 16) (w : Word) (k : Key) :
    (s.push j w).getKey k = s.getKey k := rfl
@[simp] theorem State.getV_popTo (s : State) (w : Word) (r : Reg) :
    (s.popTo w).getV r = s.getV r := rfl
@[simp] theorem State.readByte_popTo (s : State) (w : Word) (a : Nat) :
    (s.popTo w).readByte a = s.readByte a := rfl
@[simp] theorem State.getKey_popTo (s : State) (w : Word) (k : Key) :
    (s.popTo w).getKey k = s.getKey k := rfl
@[simp] theorem State.stackEntry_popTo (s : State) (w : Word) (k : Fin 16) :
    (s.popTo w).stackEntry k = s.stackEntry k := rfl
@[simp] theorem State.getV_display (s : State) (f : Framebuffer) (r : Reg) :
    (s.display f).getV r = s.getV r := rfl
@[simp] theorem State.readByte_display (s : State) (f : Framebuffer) (a : Nat) :
    (s.display f).readByte a = s.readByte a := rfl
@[simp] theorem State.getKey_display (s : State) (f : Framebuffer) (k : Key) :
    (s.display f).getKey k = s.getKey k := rfl
@[simp] theorem State.stackEntry_display (s : State) (f : Framebuffer) (k : Fin 16) :
    (s.display f).stackEntry k = s.stackEntry k := rfl

end Sys2Proof.Machine
end

