-- ==== Sys2Proof/Laws/Ops.lean ====
section
/-! SUPPORT. One lemma per shared operation that says everything it can do: faults, skips, the bounds check, the key
index, the digits, the block moves. -/

namespace Sys2Proof.Machine

/-! ## Faults (R232, R234) -/

/-- Taking a fault, written out. -/
theorem raiseFault_eq (s : State) (c : FaultCause) (a : Option Nat) : raiseFault s c a = FaultedFrom s c a := rfl

/-- A data fault, written out (R63). -/
theorem raiseDataFault_eq (s : State) : raiseDataFault s = FaultedFrom s .data (some (max s.I.toNat 0x1000)) := rfl

@[simp] theorem FaultedFrom_fault_ne_none (s : State) (c : FaultCause) (a : Option Nat) :
    (FaultedFrom s c a).fault ≠ none := nofun

/-! ## The skip (R145) -/

theorem State.skipIf_pc (s : State) (p : Bool) : (s.skipIf p).pc = if p then s.pc + 2 else s.pc := by
  cases p <;> rfl

theorem State.skipIf_eq (s : State) (p : Bool) : s.skipIf p = { s with pc := (s.skipIf p).pc } := by
  cases p <;> rfl

/-! ## Addresses (R63, R180) -/

/-- A block fits when it has no byte or its last byte is in memory (R63). -/
theorem State.blockInRange_iff (s : State) (len : Nat) :
    s.blockInRange len = true ↔ len = 0 ∨ s.I.toNat + (len - 1) < 4096 := by
  unfold State.blockInRange State.dataAddr Memory.inRange Config.memSize
  rw [Bool.or_eq_true, decide_eq_true_eq, decide_eq_true_eq]

/-- A block that does not fit. -/
theorem State.blockInRange_eq_false_iff (s : State) (len : Nat) :
    s.blockInRange len = false ↔ len ≠ 0 ∧ 4096 ≤ s.I.toNat + (len - 1) := by
  rw [← Bool.not_eq_true, State.blockInRange_iff]; omega

/-- Zero-extension keeps the number (R94). -/
@[simp] theorem zextAddr_toNat (nnn : BitVec 12) : (zextAddr nnn).toNat = nnn.toNat := by
  have := nnn.isLt
  simp [zextAddr]; omega

@[simp] theorem zextByte_toNat (b : Byte) : (zextByte b).toNat = b.toNat := by
  have := b.isLt
  simp [zextByte]; omega

@[simp] theorem glyphAddr_toNat (b : Byte) : (glyphAddr b).toNat = 5 * (b.toNat % 16) := by
  simp [glyphAddr]; omega

/-- The key a value names (R213). -/
theorem keyIndex_of_lt {b : Byte} (h : b.toNat < 16) : keyIndex b = some ⟨b.toNat, h⟩ := dif_pos h

theorem keyIndex_of_ge {b : Byte} (h : 16 ≤ b.toNat) : keyIndex b = none := dif_neg (by omega)

/-! ## Digits (R184) -/

@[simp] theorem bcdHundreds_toNat (b : Byte) : (bcdHundreds b).toNat = b.toNat / 100 := by
  have := b.isLt
  simp [bcdHundreds]; omega

@[simp] theorem bcdTens_toNat (b : Byte) : (bcdTens b).toNat = b.toNat / 10 % 10 := by
  simp [bcdTens]; omega

@[simp] theorem bcdUnits_toNat (b : Byte) : (bcdUnits b).toNat = b.toNat % 10 := by
  simp [bcdUnits]; omega

/-- Storing the digits changes memory alone. -/
theorem storeDigits_eq (s : State) (b : Byte) : storeDigits s b = { s with mem := (storeDigits s b).mem } := rfl

/-- Storing the digits keeps the canonical form. -/
theorem storeDigits_wf (s : State) (b : Byte) (h : Memory.wf s.mem = true) : Memory.wf (storeDigits s b).mem = true :=
  Memory.write_wf _ _ (Memory.write_wf _ _ (Memory.write_wf _ _ h))

/-- The bytes outside the three stored ones are left alone. -/
theorem storeDigits_readByte_of_ne (s : State) (b : Byte) {a : Nat} (h : a < s.I.toNat ∨ s.I.toNat + 3 ≤ a) :
    (storeDigits s b).readByte a = s.readByte a := by
  unfold storeDigits
  rw [State.readByte_writeByte_of_ne _ _ (by simp only [State.dataAddr]; omega),
    State.readByte_writeByte_of_ne _ _ (by simp only [State.dataAddr]; omega),
    State.readByte_writeByte_of_ne _ _ (by simp only [State.dataAddr]; omega)]

/-- The three stored bytes. -/
theorem storeDigits_readByte (s : State) (b : Byte) (hwf : Memory.wf s.mem = true) (h : s.I.toNat + 2 < 4096) :
    (storeDigits s b).readByte s.I.toNat = bcdHundreds b ∧
      (storeDigits s b).readByte (s.I.toNat + 1) = bcdTens b ∧
      (storeDigits s b).readByte (s.I.toNat + 2) = bcdUnits b := by
  have h1 := Memory.write_wf (s.dataAddr 0) (bcdHundreds b) hwf
  have h2 := Memory.write_wf (s.dataAddr 1) (bcdTens b) h1
  have hread : ∀ a, (storeDigits s b).readByte a = if a = s.I.toNat + 2 then bcdUnits b
      else if a = s.I.toNat + 1 then bcdTens b else if a = s.I.toNat then bcdHundreds b else s.readByte a := by
    intro a
    unfold storeDigits
    rw [State.readByte_writeByte _ _ _ h2 (by simp only [State.dataAddr]; omega),
      State.readByte_writeByte _ _ _ h1 (by simp only [State.dataAddr]; omega),
      State.readByte_writeByte _ _ _ hwf (by simp only [State.dataAddr]; omega)]
    rfl
  refine ⟨?_, ?_, ?_⟩ <;> rw [hread] <;> simp

/-! ## Block moves (R185, R186) -/

@[simp] theorem regAt_val {k : Nat} (h : k < 16) : (regAt k).val = k := Nat.mod_eq_of_lt h

@[simp] theorem regAt_eq (r : Reg) : regAt r.val = r := Fin.ext (regAt_val r.isLt)

theorem mem_regsUpTo {x : Reg} {k : Nat} : k ∈ regsUpTo x ↔ k ≤ x.val := by
  unfold regsUpTo
  rw [List.mem_range]
  omega

/-- A block store changes memory alone. -/
theorem storeBlock_eq (offsets : List Nat) (s : State) :
    storeBlock offsets s = { s with mem := (storeBlock offsets s).mem } := by
  induction offsets generalizing s with
  | nil => rfl
  | cons k rest ih =>
    rw [storeBlock, ih]
    rfl

/-- A block store keeps the canonical form. -/
theorem storeBlock_wf (offsets : List Nat) (s : State) (h : Memory.wf s.mem = true) :
    Memory.wf (storeBlock offsets s).mem = true := by
  induction offsets generalizing s with
  | nil => exact h
  | cons k rest ih => exact ih _ (Memory.write_wf _ _ h)

/-- The bytes a block store does not name are left alone. -/
theorem storeBlock_readByte_of_ne (offsets : List Nat) (s : State) {a : Nat} (h : ∀ k ∈ offsets, a ≠ s.I.toNat + k) :
    (storeBlock offsets s).readByte a = s.readByte a := by
  induction offsets generalizing s with
  | nil => rfl
  | cons k rest ih =>
    refine (ih (s.writeByte (s.dataAddr k) (s.getV (regAt k))) fun j hj => h j (List.mem_cons_of_mem _ hj)).trans ?_
    exact State.readByte_writeByte_of_ne _ _ (h k List.mem_cons_self)

/-- Each byte a block store names holds its register. -/
theorem storeBlock_readByte (offsets : List Nat) (s : State) (hwf : Memory.wf s.mem = true)
    (hin : ∀ k ∈ offsets, s.I.toNat + k < 4096) {k : Nat} (hk : k ∈ offsets) :
    (storeBlock offsets s).readByte (s.I.toNat + k) = s.getV (regAt k) := by
  induction offsets generalizing s with
  | nil => cases hk
  | cons j rest ih =>
    rw [storeBlock]
    by_cases hr : k ∈ rest
    · exact ih (s.writeByte (s.dataAddr j) (s.getV (regAt j))) (Memory.write_wf _ _ hwf)
        (fun i hi => hin i (List.mem_cons_of_mem _ hi)) hr
    · have hkj : k = j := by
        rcases List.mem_cons.mp hk with h | h
        · exact h
        · exact absurd h hr
      subst hkj
      rw [storeBlock_readByte_of_ne _ _ (fun i hi hc => hr (by
        have : k = i := by simp only [State.writeByte_I] at hc; omega
        exact this ▸ hi))]
      exact (State.readByte_writeByte s _ _ hwf (hin k List.mem_cons_self)).trans (if_pos rfl)

/-- A block load changes the general registers alone. -/
theorem loadBlock_eq (offsets : List Nat) (s : State) : loadBlock offsets s = { s with V := (loadBlock offsets s).V } := by
  induction offsets generalizing s with
  | nil => rfl
  | cons k rest ih =>
    rw [loadBlock, ih]
    rfl

/-- A register a block load does not name is left alone; the others hold their bytes. -/
theorem loadBlock_getV (offsets : List Nat) (s : State) (h : ∀ k ∈ offsets, k < 16) (r : Reg) :
    (loadBlock offsets s).getV r = if r.val ∈ offsets then s.readByte (s.I.toNat + r.val) else s.getV r := by
  induction offsets generalizing s with
  | nil => simp [loadBlock]
  | cons k rest ih =>
    rw [loadBlock, ih _ (fun j hj => h j (List.mem_cons_of_mem _ hj))]
    by_cases hr : r.val ∈ rest
    · rw [if_pos hr, if_pos (List.mem_cons_of_mem _ hr)]
      rfl
    · rw [if_neg hr, State.getV_setV]
      by_cases hrk : r.val = k
      · subst hrk
        simp [State.dataAddr]
      · have hne : r ≠ regAt k := fun hc => hrk (by rw [hc, regAt_val (h k List.mem_cons_self)])
        rw [if_neg hne, if_neg]
        simp [hrk, hr]

end Sys2Proof.Machine
end

