-- ==== Sys2Proof/Laws/Drawing.lean ====
section
/-! SUPPORT. What `Draw`'s loops compute, in closed form: no cell is met twice (R222 (c)), so each cell is its old value
XOR the one sprite bit that lies on it. -/

namespace Sys2Proof.Machine

/-! ## Wrapped coordinates -/

/-- The column offset at which a sprite starting at `x0` meets the column. -/
def colOffset (x0 : Byte) (col : Fin 64) : Nat := (col.val + 64 - x0.toNat % 64) % 64

/-- The row offset at which a sprite starting at `y0` meets the row. -/
def rowOffset (y0 : Byte) (row : Fin 32) : Nat := (row.val + 32 - y0.toNat % 32) % 32

theorem drawCol_eq_iff {x0 : Byte} {col : Fin 64} {c : Nat} (hc : c < 64) :
    col = drawCol x0 c ↔ c = colOffset x0 col := by
  have := col.isLt
  simp only [drawCol, colOffset, Fin.ext_iff]; omega

theorem drawRow_eq_iff {y0 : Byte} {row : Fin 32} {r : Nat} (hr : r < 32) :
    row = drawRow y0 r ↔ r = rowOffset y0 row := by
  have := row.isLt
  simp only [drawRow, rowOffset, Fin.ext_iff]; omega

theorem colOffset_lt (x0 : Byte) (col : Fin 64) : colOffset x0 col < 64 := Nat.mod_lt _ (by decide)

theorem rowOffset_lt (y0 : Byte) (row : Fin 32) : rowOffset y0 row < 32 := Nat.mod_lt _ (by decide)

/-! ## One cell -/

theorem drawCell_cell (bit : Bool) (row row' : Fin 32) (col col' : Fin 64) (k : Canvas) :
    Framebuffer.cell (drawCell bit row col k).fb row' col'
      = ((Framebuffer.cell k.fb row' col') ^^ (decide (row' = row ∧ col' = col) && bit)) := by
  unfold drawCell
  cases bit
  · simp
  · rw [if_pos rfl, Framebuffer.cell_setCell]
    by_cases h : row' = row ∧ col' = col
    · obtain ⟨rfl, rfl⟩ := h
      simp
    · simp [h]

theorem drawCell_hit (bit : Bool) (row : Fin 32) (col : Fin 64) (k : Canvas) :
    (drawCell bit row col k).hit = (k.hit || (bit && Framebuffer.cell k.fb row col)) := by
  unfold drawCell
  cases bit <;> simp

/-! ## One sprite row -/

theorem drawCols_cell (b x0 : Byte) (row row' : Fin 32) (col' : Fin 64) (cols : List Nat) (k : Canvas)
    (hnd : cols.Nodup) (hlt : ∀ c ∈ cols, c < 64) :
    Framebuffer.cell (drawCols b x0 row cols k).fb row' col'
      = ((Framebuffer.cell k.fb row' col')
          ^^ (decide (row' = row ∧ colOffset x0 col' ∈ cols) && spriteBit b (colOffset x0 col'))) := by
  induction cols generalizing k with
  | nil => simp [drawCols]
  | cons c rest ih =>
    obtain ⟨hc, hnd'⟩ := List.nodup_cons.mp hnd
    rw [drawCols, ih _ hnd' (fun j hj => hlt j (List.mem_cons_of_mem _ hj)), drawCell_cell]
    have hcol := drawCol_eq_iff (x0 := x0) (col := col') (hlt c List.mem_cons_self)
    by_cases hrow : row' = row
    · by_cases hcc : c = colOffset x0 col'
      · have : colOffset x0 col' ∉ rest := hcc ▸ hc
        simp [hrow, hcol, ← hcc, hc]
      · simp [hrow, hcol, hcc, Ne.symm hcc]
    · simp [hrow]

theorem drawCols_hit (b x0 : Byte) (row : Fin 32) (cols : List Nat) (k : Canvas)
    (hnd : cols.Nodup) (hlt : ∀ c ∈ cols, c < 64) :
    (drawCols b x0 row cols k).hit = true ↔
      k.hit = true ∨ ∃ c ∈ cols, spriteBit b c = true ∧ Framebuffer.cell k.fb row (drawCol x0 c) = true := by
  induction cols generalizing k with
  | nil => simp [drawCols]
  | cons c rest ih =>
    obtain ⟨hc, hnd'⟩ := List.nodup_cons.mp hnd
    rw [drawCols, ih _ hnd' (fun j hj => hlt j (List.mem_cons_of_mem _ hj)), drawCell_hit]
    have hcell : ∀ j ∈ rest, Framebuffer.cell (drawCell (spriteBit b c) row (drawCol x0 c) k).fb row (drawCol x0 j)
        = Framebuffer.cell k.fb row (drawCol x0 j) := by
      intro j hj
      have hj64 := hlt j (List.mem_cons_of_mem _ hj)
      have hne : drawCol x0 j ≠ drawCol x0 c := by
        intro he
        have h1 := (drawCol_eq_iff (hlt c List.mem_cons_self)).mp he
        have h2 := (drawCol_eq_iff (x0 := x0) (col := drawCol x0 j) hj64).mp rfl
        exact hc (h1.trans h2.symm ▸ hj)
      rw [drawCell_cell]
      simp [hne]
    constructor
    · rintro (h | ⟨j, hj, hs, hcl⟩)
      · rcases Bool.or_eq_true _ _ ▸ h with h | h
        · exact .inl h
        · have h' := Bool.and_eq_true _ _ ▸ h
          exact .inr ⟨c, List.mem_cons_self, h'.1, h'.2⟩
      · exact .inr ⟨j, List.mem_cons_of_mem _ hj, hs, hcell j hj ▸ hcl⟩
    · rintro (h | ⟨j, hj, hs, hcl⟩)
      · exact .inl (by simp [h])
      · rcases List.mem_cons.mp hj with rfl | hj
        · exact .inl (by simp [hs, hcl])
        · exact .inr ⟨j, hj, hs, (hcell j hj).symm ▸ hcl⟩

/-! ## The whole sprite -/

/-- The sprite byte of the row offset `r`. -/
def spriteRow (s : State) (r : Nat) : Byte := s.readByte (s.I.toNat + r)

theorem range8_nodup : (List.range 8).Nodup := List.nodup_range

theorem range8_lt : ∀ c ∈ List.range 8, c < 64 := fun c hc => by have := List.mem_range.mp hc; omega

theorem drawRows_cell (s : State) (x0 y0 : Byte) (row' : Fin 32) (col' : Fin 64) (rows : List Nat) (k : Canvas)
    (hnd : rows.Nodup) (hlt : ∀ r ∈ rows, r < 32) :
    Framebuffer.cell (drawRows s x0 y0 rows k).fb row' col'
      = ((Framebuffer.cell k.fb row' col')
          ^^ (decide (rowOffset y0 row' ∈ rows ∧ colOffset x0 col' < 8)
              && spriteBit (spriteRow s (rowOffset y0 row')) (colOffset x0 col'))) := by
  induction rows generalizing k with
  | nil => simp [drawRows]
  | cons r rest ih =>
    obtain ⟨hr, hnd'⟩ := List.nodup_cons.mp hnd
    rw [drawRows, ih _ hnd' (fun j hj => hlt j (List.mem_cons_of_mem _ hj)),
      drawCols_cell _ _ _ _ _ _ _ range8_nodup range8_lt]
    simp only [List.mem_range]
    have hrow := drawRow_eq_iff (y0 := y0) (row := row') (hlt r List.mem_cons_self)
    by_cases hrr : r = rowOffset y0 row'
    · simp [hrow, ← hrr, hr, spriteRow, State.dataAddr]
    · simp [hrow, hrr, Ne.symm hrr]

theorem drawRows_hit (s : State) (x0 y0 : Byte) (rows : List Nat) (k : Canvas)
    (hnd : rows.Nodup) (hlt : ∀ r ∈ rows, r < 32) :
    (drawRows s x0 y0 rows k).hit = true ↔
      k.hit = true ∨ ∃ r ∈ rows, ∃ c < 8, spriteBit (spriteRow s r) c = true
        ∧ Framebuffer.cell k.fb (drawRow y0 r) (drawCol x0 c) = true := by
  induction rows generalizing k with
  | nil => simp [drawRows]
  | cons r rest ih =>
    obtain ⟨hr, hnd'⟩ := List.nodup_cons.mp hnd
    rw [drawRows, ih _ hnd' (fun j hj => hlt j (List.mem_cons_of_mem _ hj)),
      drawCols_hit _ _ _ _ _ range8_nodup range8_lt]
    have hcell : ∀ j ∈ rest, ∀ c, Framebuffer.cell
        (drawCols (s.readByte (s.dataAddr r)) x0 (drawRow y0 r) (List.range 8) k).fb (drawRow y0 j) (drawCol x0 c)
          = Framebuffer.cell k.fb (drawRow y0 j) (drawCol x0 c) := by
      intro j hj c
      have hne : drawRow y0 j ≠ drawRow y0 r := by
        intro he
        have h1 := (drawRow_eq_iff (hlt r List.mem_cons_self)).mp he
        have h2 := (drawRow_eq_iff (y0 := y0) (row := drawRow y0 j) (hlt j (List.mem_cons_of_mem _ hj))).mp rfl
        exact hr (h1.trans h2.symm ▸ hj)
      rw [drawCols_cell _ _ _ _ _ _ _ range8_nodup range8_lt]
      simp [hne]
    constructor
    · rintro ((h | ⟨c, hc, hs, hcl⟩) | ⟨j, hj, c, hc, hs, hcl⟩)
      · exact .inl h
      · exact .inr ⟨r, List.mem_cons_self, c, List.mem_range.mp hc, hs, hcl⟩
      · exact .inr ⟨j, List.mem_cons_of_mem _ hj, c, hc, hs, hcell j hj c ▸ hcl⟩
    · rintro (h | ⟨j, hj, c, hc, hs, hcl⟩)
      · exact .inl (.inl h)
      · rcases List.mem_cons.mp hj with rfl | hj
        · exact .inl (.inr ⟨c, List.mem_range.mpr hc, hs, hcl⟩)
        · exact .inr ⟨j, hj, c, hc, hs, (hcell j hj c).symm ▸ hcl⟩

/-- The sprite bit on a cell, by the cell's offsets in the sprite. -/
theorem drawnBit_eq (s : State) (x0 y0 : Byte) (n : Nat) (row : Fin 32) (col : Fin 64) :
    drawnBit s x0 y0 n row col
      = (decide (rowOffset y0 row < n ∧ colOffset x0 col < 8)
          && spriteBit (spriteRow s (rowOffset y0 row)) (colOffset x0 col)) := by
  rw [Bool.decide_and]
  rfl

/-- Every cell after the sprite (R222). -/
theorem drawSprite_cell (s : State) (x0 y0 : Byte) {n : Nat} (hn : n ≤ 32) (row : Fin 32) (col : Fin 64) :
    Framebuffer.cell (drawSprite s x0 y0 n).fb row col
      = ((Framebuffer.cell s.fb row col) ^^ drawnBit s x0 y0 n row col) := by
  rw [drawSprite, drawRows_cell _ _ _ _ _ _ _ List.nodup_range (fun r hr => by have := List.mem_range.mp hr; omega),
    drawnBit_eq]
  simp only [List.mem_range]

/-- The collision flag after the sprite: some sprite bit lies on a cell that was ON (R222, C12). -/
theorem drawSprite_hit (s : State) (x0 y0 : Byte) {n : Nat} (hn : n ≤ 32) :
    (drawSprite s x0 y0 n).hit = true ↔
      ∃ (row : Fin 32) (col : Fin 64), drawnBit s x0 y0 n row col = true ∧ Framebuffer.cell s.fb row col = true := by
  rw [drawSprite, drawRows_hit _ _ _ _ _ List.nodup_range (fun r hr => by have := List.mem_range.mp hr; omega)]
  constructor
  · rintro (h | ⟨r, hr, c, hc, hs, hcl⟩)
    · cases h
    · have hr' := List.mem_range.mp hr
      have h1 := (drawRow_eq_iff (y0 := y0) (row := drawRow y0 r) (by omega : r < 32)).mp rfl
      have h2 := (drawCol_eq_iff (x0 := x0) (col := drawCol x0 c) (by omega : c < 64)).mp rfl
      refine ⟨drawRow y0 r, drawCol x0 c, ?_, hcl⟩
      rw [drawnBit_eq, ← h1, ← h2, hs]
      simp [hr', hc]
  · rintro ⟨row, col, hb, hcl⟩
    rw [drawnBit_eq, Bool.and_eq_true, decide_eq_true_eq] at hb
    refine .inr ⟨rowOffset y0 row, List.mem_range.mpr hb.1.1, colOffset x0 col, hb.1.2, hb.2, ?_⟩
    rw [← (drawRow_eq_iff (rowOffset_lt y0 row)).mpr rfl, ← (drawCol_eq_iff (colOffset_lt x0 col)).mpr rfl]
    exact hcl

end Sys2Proof.Machine
end

