-- ==== Sys2Proof/Laws/Exec.lean ====
section
/-! SUPPORT. What an instruction can do, said once: it takes a fault, or it changes architectural state alone. -/

namespace Sys2Proof.Machine

/-- Nothing has changed but what some instruction may write: the columns of R37, the `present` strobe and the count of
random draws. -/
def OnlyArchitectural (s t : State) : Prop :=
  t = { s with
    V := t.V, I := t.I, pc := t.pc, SP := t.SP, stack := t.stack, mem := t.mem, DT := t.DT, ST := t.ST
    keypad := t.keypad, fb := t.fb, present := t.present, draws := t.draws }

theorem onlyArchitectural_skipIf (s : State) (p : Bool) : OnlyArchitectural s (s.skipIf p) := by
  cases p <;> rfl

theorem onlyArchitectural_setCollision (s : State) (f : Framebuffer) (hit : Bool) :
    OnlyArchitectural s ((s.display f).setCollision hit) := by
  cases hit <;> rfl

theorem onlyArchitectural_storeBlock (offsets : List Nat) (s : State) : OnlyArchitectural s (storeBlock offsets s) := by
  unfold OnlyArchitectural
  rw [storeBlock_eq]

theorem onlyArchitectural_loadBlock (offsets : List Nat) (s : State) : OnlyArchitectural s (loadBlock offsets s) := by
  unfold OnlyArchitectural
  rw [loadBlock_eq]

/-- The skip on a key takes the key fault or changes `pc` alone (R210, R213). -/
theorem skipOnKey_cases (s : State) (b : Byte) (p : Bool) :
    (16 ≤ b.toNat ∧ skipOnKey s b p = FaultedFrom s .key (some b.toNat)) ∨
      ∃ h : b.toNat < 16, skipOnKey s b p = s.skipIf (s.getKey ⟨b.toNat, h⟩ == p) := by
  by_cases h : b.toNat < 16
  · exact .inr ⟨h, by rw [skipOnKey, keyIndex_of_lt h]⟩
  · exact .inl ⟨by omega, by rw [skipOnKey, keyIndex_of_ge (by omega)]; rfl⟩

/-- If an instruction answers a next state, it has taken a fault from this state (never a fetch
fault), or changed architectural state alone. -/
theorem exec_next_cases {i : Instr} {s t : State} (h : exec i s = .next t) :
    (∃ c a, c ≠ .fetch ∧ t = FaultedFrom s c a) ∨ OnlyArchitectural s t := by
  cases i
  case nop =>
    simp only [exec, execNop, Host.Outcome.next.injEq] at h
    split at h <;> subst h
    · exact .inl ⟨_, _, by decide, rfl⟩
    · exact .inr rfl
  case call nnn =>
    simp only [exec, execCall, Host.Outcome.next.injEq] at h
    split at h <;> subst h
    · exact .inr rfl
    · exact .inl ⟨_, _, by decide, rfl⟩
  case ret =>
    simp only [exec, execRet] at h
    split at h
    · injection h with h; subst h
      exact .inl ⟨_, _, by decide, rfl⟩
    · split at h
      · injection h with h; subst h
        exact .inr rfl
      · cases h
  case draw x y n =>
    simp only [exec, execDraw, Host.Outcome.next.injEq] at h
    split at h <;> subst h
    · exact .inr (onlyArchitectural_setCollision _ _ _)
    · exact .inl ⟨_, _, by decide, rfl⟩
  case skipPressed x =>
    simp only [exec, execSkipPressed, Host.Outcome.next.injEq] at h
    subst h
    rcases skipOnKey_cases s (s.getV x) true with ⟨_, he⟩ | ⟨_, he⟩
    · exact .inl ⟨_, _, by decide, he⟩
    · exact .inr (he ▸ onlyArchitectural_skipIf _ _)
  case skipNotPressed x =>
    simp only [exec, execSkipNotPressed, Host.Outcome.next.injEq] at h
    subst h
    rcases skipOnKey_cases s (s.getV x) false with ⟨_, he⟩ | ⟨_, he⟩
    · exact .inl ⟨_, _, by decide, he⟩
    · exact .inr (he ▸ onlyArchitectural_skipIf _ _)
  case waitKeypress x =>
    simp only [exec, execWaitKeypress, Host.Outcome.next.injEq] at h
    split at h <;> subst h <;> exact .inr rfl
  case storeBcd x =>
    simp only [exec, execStoreBcd, Host.Outcome.next.injEq] at h
    split at h <;> subst h
    · exact .inr rfl
    · exact .inl ⟨_, _, by decide, rfl⟩
  case storeRegs x =>
    simp only [exec, execStoreRegs, Host.Outcome.next.injEq] at h
    split at h <;> subst h
    · exact .inr (onlyArchitectural_storeBlock _ _)
    · exact .inl ⟨_, _, by decide, rfl⟩
  case loadRegs x =>
    simp only [exec, execLoadRegs, Host.Outcome.next.injEq] at h
    split at h <;> subst h
    · exact .inr (onlyArchitectural_loadBlock _ _)
    · exact .inl ⟨_, _, by decide, rfl⟩
  case skipEqIm x nn => injection h with h; subst h; exact .inr (onlyArchitectural_skipIf _ _)
  case skipNeIm x nn => injection h with h; subst h; exact .inr (onlyArchitectural_skipIf _ _)
  case skipEq x y => injection h with h; subst h; exact .inr (onlyArchitectural_skipIf _ _)
  case skipNe x y => injection h with h; subst h; exact .inr (onlyArchitectural_skipIf _ _)
  all_goals (injection h with h; subst h; exact .inr rfl)

/-- An instruction keeps memory in canonical form. -/
theorem exec_mem_wf {i : Instr} {s t : State} (h : exec i s = .next t) (hwf : Memory.wf s.mem = true) :
    Memory.wf t.mem = true := by
  cases i
  case storeBcd x =>
    simp only [exec, execStoreBcd, Host.Outcome.next.injEq] at h
    split at h <;> subst h
    · exact storeDigits_wf _ _ hwf
    · exact hwf
  case storeRegs x =>
    simp only [exec, execStoreRegs, Host.Outcome.next.injEq] at h
    split at h <;> subst h
    · exact storeBlock_wf _ _ hwf
    · exact hwf
  case loadRegs x =>
    simp only [exec, execLoadRegs, Host.Outcome.next.injEq] at h
    split at h <;> subst h
    · rw [loadBlock_eq]; exact hwf
    · exact hwf
  case nop =>
    simp only [exec, execNop, Host.Outcome.next.injEq] at h
    split at h <;> (subst h; exact hwf)
  case call nnn =>
    simp only [exec, execCall, Host.Outcome.next.injEq] at h
    split at h <;> (subst h; exact hwf)
  case ret =>
    simp only [exec, execRet] at h
    split at h
    · injection h with h; subst h; exact hwf
    · split at h
      · injection h with h; subst h; exact hwf
      · cases h
  case draw x y n =>
    simp only [exec, execDraw, Host.Outcome.next.injEq] at h
    split at h <;> subst h
    · rw [onlyArchitectural_setCollision]
      unfold State.setCollision
      split <;> exact hwf
    · exact hwf
  case skipPressed x =>
    simp only [exec, execSkipPressed, Host.Outcome.next.injEq] at h
    subst h
    rcases skipOnKey_cases s (s.getV x) true with ⟨_, he⟩ | ⟨_, he⟩ <;> rw [he]
    · exact hwf
    · rw [State.skipIf_eq]; exact hwf
  case skipNotPressed x =>
    simp only [exec, execSkipNotPressed, Host.Outcome.next.injEq] at h
    subst h
    rcases skipOnKey_cases s (s.getV x) false with ⟨_, he⟩ | ⟨_, he⟩ <;> rw [he]
    · exact hwf
    · rw [State.skipIf_eq]; exact hwf
  case waitKeypress x =>
    simp only [exec, execWaitKeypress, Host.Outcome.next.injEq] at h
    split at h <;> (subst h; exact hwf)
  case skipEqIm x nn => injection h with h; subst h; unfold State.skipIf; split <;> exact hwf
  case skipNeIm x nn => injection h with h; subst h; unfold State.skipIf; split <;> exact hwf
  case skipEq x y => injection h with h; subst h; unfold State.skipIf; split <;> exact hwf
  case skipNe x y => injection h with h; subst h; unfold State.skipIf; split <;> exact hwf
  all_goals (injection h with h; subst h; exact hwf)

end Sys2Proof.Machine
end

