-- ==== Sys2Proof/Laws/Cycle.lean ====
section
/-! SUPPORT. What a step can do, said once; the gap, the clock and the cycle's end. -/

namespace Sys2Proof.Machine

/-! ## The gap (R40, R42) -/

theorem applyWrites_eq (ws : List GapWrite) (s : State) : applyWrites ws s = { s with
    keypad := (applyWrites ws s).keypad, keyReleased := (applyWrites ws s).keyReleased, run := (applyWrites ws s).run } := by
  induction ws generalizing s with
  | nil => rfl
  | cons w rest ih =>
    rw [applyWrites, ih]
    cases w <;> rfl

/-- The gap writes the keypad, the release event and `run` alone, and takes its entry from the list. -/
theorem enterGap_eq (s : State) : s.enterGap = { s with
    keypad := s.enterGap.keypad, keyReleased := s.enterGap.keyReleased, run := s.enterGap.run, inputs := s.inputs.tail } := by
  unfold State.enterGap
  split
  · next h => rw [h]; exact congrArg (fun l => { s with inputs := l }) h
  · next ws later h =>
    rw [applyWrites_eq]
    simp [h]

@[simp] theorem enterGap_fault (s : State) : s.enterGap.fault = s.fault := by rw [enterGap_eq]
@[simp] theorem enterGap_pc (s : State) : s.enterGap.pc = s.pc := by rw [enterGap_eq]
@[simp] theorem enterGap_mem (s : State) : s.enterGap.mem = s.mem := by rw [enterGap_eq]
@[simp] theorem enterGap_cfg (s : State) : s.enterGap.cfg = s.cfg := by rw [enterGap_eq]
@[simp] theorem enterGap_V (s : State) : s.enterGap.V = s.V := by rw [enterGap_eq]
@[simp] theorem enterGap_I (s : State) : s.enterGap.I = s.I := by rw [enterGap_eq]
@[simp] theorem enterGap_SP (s : State) : s.enterGap.SP = s.SP := by rw [enterGap_eq]
@[simp] theorem enterGap_stack (s : State) : s.enterGap.stack = s.stack := by rw [enterGap_eq]
@[simp] theorem enterGap_DT (s : State) : s.enterGap.DT = s.DT := by rw [enterGap_eq]
@[simp] theorem enterGap_ST (s : State) : s.enterGap.ST = s.ST := by rw [enterGap_eq]
@[simp] theorem enterGap_fb (s : State) : s.enterGap.fb = s.fb := by rw [enterGap_eq]
@[simp] theorem enterGap_cycleCount (s : State) : s.enterGap.cycleCount = s.cycleCount := by rw [enterGap_eq]
@[simp] theorem enterGap_debt (s : State) : s.enterGap.debt = s.debt := by rw [enterGap_eq]
@[simp] theorem enterGap_wtimer (s : State) : s.enterGap.wtimer = s.wtimer := by rw [enterGap_eq]
@[simp] theorem enterGap_tone (s : State) : s.enterGap.tone = s.tone := by rw [enterGap_eq]
@[simp] theorem enterGap_sleeping (s : State) : s.enterGap.sleeping = s.sleeping := by rw [enterGap_eq]
@[simp] theorem enterGap_clockReads (s : State) : s.enterGap.clockReads = s.clockReads := by rw [enterGap_eq]

/-- The gap does not see the throttle's state. -/
theorem applyWrites_throttle (ws : List GapWrite) (s : State) (d w : BitVec 64) (k : Nat) :
    applyWrites ws { s with debt := d, wtimer := w, clockReads := k }
      = { applyWrites ws s with debt := d, wtimer := w, clockReads := k } := by
  induction ws generalizing s with
  | nil => rfl
  | cons v rest ih =>
    cases v with
    | key j held => exact ih (s.setKey j held)
    | release event => exact ih { s with keyReleased := event }
    | run level => exact ih { s with run := level }

/-! ## When a cycle runs -/

theorem State.ready_iff (s : State) :
    s.ready = true ↔ s.fault = none ∧ s.run = true ∧ rateValid s.cfg = true ∧ s.sleeping = false := by
  simp [State.ready, Bool.and_eq_true, and_assoc]

theorem cannotRun_of_ready {s : State} (h : s.ready = true) : cannotRun s = none := by
  obtain ⟨_, h2, h3, _⟩ := (State.ready_iff s).mp h
  simp [cannotRun, h2, h3]

/-- A step that runs a cycle: the fetch check, then the execute phase and the cycle's end. -/
theorem step_of_ready {s : State} (h : s.enterGap.ready = true) : step s =
    if fetchFaults (startCycle s.enterGap) then .next (raiseFetchFault (startCycle s.enterGap))
    else completeCycle (exec (fetchInstr (startCycle s.enterGap)) (advancePc (startCycle s.enterGap))) := by
  obtain ⟨h1, _, _, h4⟩ := (State.ready_iff _).mp h
  rw [enterGap_fault] at h1
  rw [enterGap_sleeping] at h4
  simp [step, h1, cannotRun_of_ready h, h4]

/-- If a step answers a next state, it has ended a sleep, taken a fetch fault, taken a fault of the instruction, or
completed a cycle. -/
theorem step_next_cases {s t : State} (h : step s = .next t) :
    s.fault = none ∧ s.enterGap.run = true ∧ rateValid s.cfg = true ∧
      ((s.sleeping = true ∧ t = wakeUp s.enterGap) ∨
        (s.sleeping = false ∧ 0x0FFE < s.pc.toNat ∧ t = raiseFetchFault (startCycle s.enterGap)) ∨
        (s.sleeping = false ∧ s.pc.toNat ≤ 0x0FFE ∧ ∃ u : State,
          exec (fetchInstr (startCycle s.enterGap)) (advancePc (startCycle s.enterGap)) = .next u ∧
            ((u.fault ≠ none ∧ t = u) ∨ (u.fault = none ∧ t = finishCycle u)))) := by
  unfold step at h
  split at h
  · cases h
  · next hf =>
    have hf' : s.fault = none := by
      cases hs : s.fault with
      | none => rfl
      | some r => simp [hs] at hf
    unfold cannotRun at h
    by_cases hr : s.enterGap.run = false
    · simp [hr] at h
    · by_cases hv : rateValid s.cfg = false
      · simp [hr, hv] at h
      · have hr' : s.enterGap.run = true := by simpa using hr
        have hv' : rateValid s.cfg = true := by simpa using hv
        refine ⟨hf', hr', hv', ?_⟩
        simp only [hr', enterGap_cfg, hv', Bool.true_eq_false, if_false, enterGap_sleeping] at h
        by_cases hsl : s.sleeping = true
        · rw [if_pos hsl] at h
          injection h with h
          exact .inl ⟨hsl, h.symm⟩
        · have hsl' : s.sleeping = false := by simpa using hsl
          rw [if_neg hsl] at h
          have hpc : fetchFaults (startCycle s.enterGap) = decide (0x0FFE < s.pc.toNat) := by
            unfold fetchFaults startCycle
            simp
          rw [hpc] at h
          by_cases hp : 0x0FFE < s.pc.toNat
          · rw [if_pos (decide_eq_true hp)] at h
            injection h with h
            exact .inr (.inl ⟨hsl', hp, h.symm⟩)
          · rw [if_neg (by simpa using hp)] at h
            refine .inr (.inr ⟨hsl', by omega, ?_⟩)
            cases he : exec (fetchInstr (startCycle s.enterGap)) (advancePc (startCycle s.enterGap)) with
            | next u =>
              rw [he] at h
              simp only [completeCycle, Host.Outcome.next.injEq] at h
              refine ⟨u, rfl, ?_⟩
              cases hu : u.fault with
              | none => simp [hu] at h; exact .inr ⟨rfl, h.symm⟩
              | some r => simp [hu] at h; exact .inl ⟨nofun, h.symm⟩
            | fault r => rw [he] at h; cases h
            | refused r => rw [he] at h; cases h

/-! ## The cycle's end -/

/-! ### The throttle and the timer update, field by field -/

@[simp] theorem throttle_V (s : State) : (throttle s).V = s.V := by
  simp only [throttle, wakeUp, throttleWake, throttleEnter]
@[simp] theorem throttle_I (s : State) : (throttle s).I = s.I := by
  simp only [throttle, wakeUp, throttleWake, throttleEnter]
@[simp] theorem throttle_pc (s : State) : (throttle s).pc = s.pc := by
  simp only [throttle, wakeUp, throttleWake, throttleEnter]
@[simp] theorem throttle_SP (s : State) : (throttle s).SP = s.SP := by
  simp only [throttle, wakeUp, throttleWake, throttleEnter]
@[simp] theorem throttle_stack (s : State) : (throttle s).stack = s.stack := by
  simp only [throttle, wakeUp, throttleWake, throttleEnter]
@[simp] theorem throttle_mem (s : State) : (throttle s).mem = s.mem := by
  simp only [throttle, wakeUp, throttleWake, throttleEnter]
@[simp] theorem throttle_DT (s : State) : (throttle s).DT = s.DT := by
  simp only [throttle, wakeUp, throttleWake, throttleEnter]
@[simp] theorem throttle_ST (s : State) : (throttle s).ST = s.ST := by
  simp only [throttle, wakeUp, throttleWake, throttleEnter]
@[simp] theorem throttle_keypad (s : State) : (throttle s).keypad = s.keypad := by
  simp only [throttle, wakeUp, throttleWake, throttleEnter]
@[simp] theorem throttle_keyReleased (s : State) : (throttle s).keyReleased = s.keyReleased := by
  simp only [throttle, wakeUp, throttleWake, throttleEnter]
@[simp] theorem throttle_fb (s : State) : (throttle s).fb = s.fb := by
  simp only [throttle, wakeUp, throttleWake, throttleEnter]
@[simp] theorem throttle_cycleCount (s : State) : (throttle s).cycleCount = s.cycleCount := by
  simp only [throttle, wakeUp, throttleWake, throttleEnter]
@[simp] theorem throttle_fault (s : State) : (throttle s).fault = s.fault := by
  simp only [throttle, wakeUp, throttleWake, throttleEnter]
@[simp] theorem throttle_present (s : State) : (throttle s).present = s.present := by
  simp only [throttle, wakeUp, throttleWake, throttleEnter]
@[simp] theorem throttle_tone (s : State) : (throttle s).tone = s.tone := by
  simp only [throttle, wakeUp, throttleWake, throttleEnter]
@[simp] theorem throttle_sleeping (s : State) : (throttle s).sleeping = false := by
  simp only [throttle, wakeUp, throttleWake, throttleEnter]
@[simp] theorem throttle_run (s : State) : (throttle s).run = s.run := by
  simp only [throttle, wakeUp, throttleWake, throttleEnter]
@[simp] theorem throttle_cfg (s : State) : (throttle s).cfg = s.cfg := by
  simp only [throttle, wakeUp, throttleWake, throttleEnter]
@[simp] theorem throttle_inputs (s : State) : (throttle s).inputs = s.inputs := by
  simp only [throttle, wakeUp, throttleWake, throttleEnter]
@[simp] theorem throttle_draws (s : State) : (throttle s).draws = s.draws := by
  simp only [throttle, wakeUp, throttleWake, throttleEnter]
@[simp] theorem throttle_clockReads (s : State) : (throttle s).clockReads = s.clockReads + 1 := by
  simp only [throttle, wakeUp, throttleWake, throttleEnter]

@[simp] theorem timerUpdate_V (s : State) : (timerUpdate s).V = s.V := by
  simp only [timerUpdate, sampleTone, tickTimers, countCycle]
@[simp] theorem timerUpdate_I (s : State) : (timerUpdate s).I = s.I := by
  simp only [timerUpdate, sampleTone, tickTimers, countCycle]
@[simp] theorem timerUpdate_pc (s : State) : (timerUpdate s).pc = s.pc := by
  simp only [timerUpdate, sampleTone, tickTimers, countCycle]
@[simp] theorem timerUpdate_SP (s : State) : (timerUpdate s).SP = s.SP := by
  simp only [timerUpdate, sampleTone, tickTimers, countCycle]
@[simp] theorem timerUpdate_stack (s : State) : (timerUpdate s).stack = s.stack := by
  simp only [timerUpdate, sampleTone, tickTimers, countCycle]
@[simp] theorem timerUpdate_mem (s : State) : (timerUpdate s).mem = s.mem := by
  simp only [timerUpdate, sampleTone, tickTimers, countCycle]
@[simp] theorem timerUpdate_DT (s : State) : (timerUpdate s).DT =
    if (s.cycleCount + 1).toNat % tickDiv s.cfg = 0 then countDown s.DT else s.DT := by
  simp [timerUpdate, sampleTone, tickTimers, countCycle, ticks]
@[simp] theorem timerUpdate_ST (s : State) : (timerUpdate s).ST =
    if (s.cycleCount + 1).toNat % tickDiv s.cfg = 0 then countDown s.ST else s.ST := by
  simp [timerUpdate, sampleTone, tickTimers, countCycle, ticks]
@[simp] theorem timerUpdate_keypad (s : State) : (timerUpdate s).keypad = s.keypad := by
  simp only [timerUpdate, sampleTone, tickTimers, countCycle]
@[simp] theorem timerUpdate_keyReleased (s : State) : (timerUpdate s).keyReleased = none := by
  simp only [timerUpdate, sampleTone, tickTimers, countCycle]
@[simp] theorem timerUpdate_fb (s : State) : (timerUpdate s).fb = s.fb := by
  simp only [timerUpdate, sampleTone, tickTimers, countCycle]
@[simp] theorem timerUpdate_cycleCount (s : State) : (timerUpdate s).cycleCount = s.cycleCount + 1 := by
  simp only [timerUpdate, sampleTone, tickTimers, countCycle]
@[simp] theorem timerUpdate_fault (s : State) : (timerUpdate s).fault = s.fault := by
  simp only [timerUpdate, sampleTone, tickTimers, countCycle]
@[simp] theorem timerUpdate_debt (s : State) : (timerUpdate s).debt = s.debt := by
  simp only [timerUpdate, sampleTone, tickTimers, countCycle]
@[simp] theorem timerUpdate_wtimer (s : State) : (timerUpdate s).wtimer = s.wtimer := by
  simp only [timerUpdate, sampleTone, tickTimers, countCycle]
@[simp] theorem timerUpdate_present (s : State) : (timerUpdate s).present = s.present := by
  simp only [timerUpdate, sampleTone, tickTimers, countCycle]
theorem timerUpdate_tone (s : State) : (timerUpdate s).tone = decide ((timerUpdate s).ST.toNat > 0) := rfl
@[simp] theorem timerUpdate_sleeping (s : State) : (timerUpdate s).sleeping = s.sleeping := by
  simp only [timerUpdate, sampleTone, tickTimers, countCycle]
@[simp] theorem timerUpdate_run (s : State) : (timerUpdate s).run = s.run := by
  simp only [timerUpdate, sampleTone, tickTimers, countCycle]
@[simp] theorem timerUpdate_cfg (s : State) : (timerUpdate s).cfg = s.cfg := by
  simp only [timerUpdate, sampleTone, tickTimers, countCycle]
@[simp] theorem timerUpdate_inputs (s : State) : (timerUpdate s).inputs = s.inputs := by
  simp only [timerUpdate, sampleTone, tickTimers, countCycle]
@[simp] theorem timerUpdate_draws (s : State) : (timerUpdate s).draws = s.draws := by
  simp only [timerUpdate, sampleTone, tickTimers, countCycle]
@[simp] theorem timerUpdate_clockReads (s : State) : (timerUpdate s).clockReads = s.clockReads := by
  simp only [timerUpdate, sampleTone, tickTimers, countCycle]

@[simp] theorem finishCycle_V (s : State) : (finishCycle s).V = s.V := by
  simp only [finishCycle, throttle_V, timerUpdate_V]
@[simp] theorem finishCycle_I (s : State) : (finishCycle s).I = s.I := by
  simp only [finishCycle, throttle_I, timerUpdate_I]
@[simp] theorem finishCycle_pc (s : State) : (finishCycle s).pc = s.pc := by
  simp only [finishCycle, throttle_pc, timerUpdate_pc]
@[simp] theorem finishCycle_SP (s : State) : (finishCycle s).SP = s.SP := by
  simp only [finishCycle, throttle_SP, timerUpdate_SP]
@[simp] theorem finishCycle_stack (s : State) : (finishCycle s).stack = s.stack := by
  simp only [finishCycle, throttle_stack, timerUpdate_stack]
@[simp] theorem finishCycle_mem (s : State) : (finishCycle s).mem = s.mem := by
  simp only [finishCycle, throttle_mem, timerUpdate_mem]
@[simp] theorem finishCycle_DT (s : State) : (finishCycle s).DT =
    if (s.cycleCount + 1).toNat % tickDiv s.cfg = 0 then countDown s.DT else s.DT := by
  simp only [finishCycle, throttle_DT, timerUpdate_DT]
@[simp] theorem finishCycle_ST (s : State) : (finishCycle s).ST =
    if (s.cycleCount + 1).toNat % tickDiv s.cfg = 0 then countDown s.ST else s.ST := by
  simp only [finishCycle, throttle_ST, timerUpdate_ST]
@[simp] theorem finishCycle_keypad (s : State) : (finishCycle s).keypad = s.keypad := by
  simp only [finishCycle, throttle_keypad, timerUpdate_keypad]
@[simp] theorem finishCycle_keyReleased (s : State) : (finishCycle s).keyReleased = none := by
  simp only [finishCycle, throttle_keyReleased, timerUpdate_keyReleased]
@[simp] theorem finishCycle_fb (s : State) : (finishCycle s).fb = s.fb := by
  simp only [finishCycle, throttle_fb, timerUpdate_fb]
@[simp] theorem finishCycle_cycleCount (s : State) : (finishCycle s).cycleCount = s.cycleCount + 1 := by
  simp only [finishCycle, throttle_cycleCount, timerUpdate_cycleCount]
@[simp] theorem finishCycle_fault (s : State) : (finishCycle s).fault = s.fault := by
  simp only [finishCycle, throttle_fault, timerUpdate_fault]
@[simp] theorem finishCycle_present (s : State) : (finishCycle s).present = s.present := by
  simp only [finishCycle, throttle_present, timerUpdate_present]
theorem finishCycle_tone (s : State) : (finishCycle s).tone = decide ((finishCycle s).ST.toNat > 0) := by
  simp only [finishCycle, throttle_tone, timerUpdate_tone, throttle_ST]
@[simp] theorem finishCycle_sleeping (s : State) : (finishCycle s).sleeping = false := by
  simp only [finishCycle, throttle_sleeping]
@[simp] theorem finishCycle_run (s : State) : (finishCycle s).run = s.run := by
  simp only [finishCycle, throttle_run, timerUpdate_run]
@[simp] theorem finishCycle_cfg (s : State) : (finishCycle s).cfg = s.cfg := by
  simp only [finishCycle, throttle_cfg, timerUpdate_cfg]
@[simp] theorem finishCycle_inputs (s : State) : (finishCycle s).inputs = s.inputs := by
  simp only [finishCycle, throttle_inputs, timerUpdate_inputs]
@[simp] theorem finishCycle_draws (s : State) : (finishCycle s).draws = s.draws := by
  simp only [finishCycle, throttle_draws, timerUpdate_draws]
@[simp] theorem finishCycle_clockReads (s : State) : (finishCycle s).clockReads = s.clockReads + 1 := by
  simp only [finishCycle, throttle_clockReads, timerUpdate_clockReads]

/-- A timer after a tick is the timer less one, and not below 0 (R247). -/
@[simp] theorem countDown_toNat (t : Byte) : (countDown t).toNat = t.toNat - 1 := by
  have := t.isLt
  unfold countDown
  split
  · next h => subst h; rfl
  · next h =>
    have hpos : t.toNat ≠ 0 := fun hc => h (BitVec.eq_of_toNat_eq hc)
    rw [BitVec.toNat_sub]
    simp; omega

/-! ## Faults of the execute phase -/

/-- A fault taken by the instruction of a cycle, seen from the cycle's start (R232). -/
theorem FaultedFrom_advancePc (s : State) (c : FaultCause) (a : Option Nat) :
    FaultedFrom (advancePc (startCycle s)) c a = { s with
      present := false
      fault := some {
        cause := c
        fpc := s.pc
        fir := some (wordOfBytes (s.readByte s.pc.toNat) (s.readByte (s.pc.toNat + 1)))
        faddr := a } } := by
  have h : s.pc + 2 - 2 = s.pc := BitVec.add_sub_cancel ..
  simp only [FaultedFrom, advancePc, startCycle, State.setPc, State.readByte, h]

/-! ## The clock (R257, R258) -/

/-- A reading is not below its lower bound and is within the clock's 64 bits. -/
theorem readingFrom_bounds {lo : Nat} (h : lo < 2 ^ 64) (k : Nat) : lo ≤ readingFrom lo k ∧ readingFrom lo k < 2 ^ 64 := by
  have hm : k % (2 ^ 64 - lo) < 2 ^ 64 - lo := Nat.mod_lt _ (by omega)
  unfold readingFrom
  omega

/-- The clock never runs back (R257). -/
theorem clockNow_bounds (s : State) : s.wtimer.toNat ≤ clockNow s ∧ clockNow s < 2 ^ 64 :=
  readingFrom_bounds s.wtimer.isLt _

/-- The wake-up time is within the clock, and not before the sleep was to end where the clock reaches so far (R258). -/
theorem wakeTime_bounds (s : State) :
    min (s.wtimer.toNat + s.debt.toNat) (2 ^ 64 - 1) ≤ wakeTime s ∧ wakeTime s < 2 ^ 64 :=
  readingFrom_bounds (by omega) _

/-- The timer update does not touch the clock. -/
@[simp] theorem clockNow_timerUpdate (s : State) : clockNow (timerUpdate s) = clockNow s := by
  simp only [clockNow, timerUpdate_wtimer, timerUpdate_clockReads]

/-- The throttle's state after a cycle's end, all that R256 says of it: that of its algorithm for the entry sample
`clockNow s` and a wake-up time that meets R258 up to the clock's last value. -/
theorem finishCycle_throttle (s : State) :
    ∃ t1 : Nat, min (clockNow s + (throttleEnter (clockNow s) s).debt.toNat) (2 ^ 64 - 1) ≤ t1 ∧ t1 < 2 ^ 64 ∧
      (finishCycle s).debt = (throttleWake t1 (throttleEnter (clockNow s) s)).debt ∧
      (finishCycle s).wtimer = (throttleWake t1 (throttleEnter (clockNow s) s)).wtimer := by
  have hd : throttleEnter (clockNow s) (timerUpdate s) = { timerUpdate s with
      debt := (throttleEnter (clockNow s) s).debt, wtimer := (throttleEnter (clockNow s) s).wtimer
      sleeping := (throttleEnter (clockNow s) s).sleeping } := rfl
  have hw : (throttleEnter (clockNow s) s).wtimer.toNat = clockNow s := by
    simp only [throttleEnter, BitVec.toNat_ofNat]
    exact Nat.mod_eq_of_lt (clockNow_bounds s).2
  obtain ⟨h1, h2⟩ := wakeTime_bounds (throttleEnter (clockNow s) (timerUpdate s))
  refine ⟨wakeTime (throttleEnter (clockNow s) (timerUpdate s)), ?_, h2, ?_, ?_⟩
  · rwa [hd, hw] at h1
  · simp only [finishCycle, throttle, wakeUp, throttleWake, clockNow_timerUpdate, hd]
  · simp only [finishCycle, throttle, wakeUp, throttleWake, clockNow_timerUpdate, hd]

/-- The debt that a throttle call leaves when it does not sleep (R259). -/
theorem throttleEnter_debt_of_awake {s : State} {t0 : Nat} (hd : s.debt.toNat ≤ throttleThreshold)
    (h : (throttleEnter t0 s).sleeping = false) : (throttleEnter t0 s).debt.toNat ≤ throttleThreshold := by
  have hle : debtAt s t0 ≤ throttleThreshold := by
    simp only [throttleEnter, Bool.and_eq_false_iff, decide_eq_false_iff_not] at h
    rcases h with h | h
    · unfold debtAt
      rw [if_neg (by simp [h])]
      split <;> omega
    · omega
  show (BitVec.ofNat 64 (debtAt s t0)).toNat ≤ _
  rw [BitVec.toNat_ofNat]
  exact Nat.le_trans (Nat.mod_le _ _) hle

end Sys2Proof.Machine
end

