-- ==== Sys2Proof/Laws/Decode.lean ====
section
/-! SUPPORT. The fields of an encoded word are the fields it was made of (R92, R93), and the bits the table fixes. -/

namespace Sys2Proof

/-- Concatenation is the high part shifted up, plus the low part (R9). -/
theorem append_toNat {w v : Nat} (a : BitVec w) (b : BitVec v) : (a ++ b).toNat = a.toNat * 2 ^ v + b.toNat := by
  rw [BitVec.toNat_append, ← Nat.shiftLeft_add_eq_or_of_lt b.isLt, Nat.shiftLeft_eq]

/-! ## Encoded words as numbers -/

theorem encodeNnn_toNat (op : BitVec 4) (nnn : BitVec 12) : (encodeNnn op nnn).toNat = op.toNat * 4096 + nnn.toNat :=
  append_toNat op nnn

theorem encodeXnn_toNat (op : BitVec 4) (x : Reg) (nn : Byte) :
    (encodeXnn op x nn).toNat = op.toNat * 4096 + x.val * 256 + nn.toNat := by
  refine (append_toNat (op ++ (BitVec.ofFin x : BitVec 4)) nn).trans ?_
  rw [append_toNat]
  simp only [BitVec.toNat_ofFin]; omega

theorem encodeXyn_toNat (op : BitVec 4) (x y : Reg) (n : BitVec 4) :
    (encodeXyn op x y n).toNat = op.toNat * 4096 + x.val * 256 + y.val * 16 + n.toNat := by
  refine (append_toNat (op ++ (BitVec.ofFin x : BitVec 4) ++ (BitVec.ofFin y : BitVec 4)) n).trans ?_
  rw [append_toNat, append_toNat]
  simp only [BitVec.toNat_ofFin]; omega

theorem wordOfBytes_toNat (hi lo : Byte) : (wordOfBytes hi lo).toNat = hi.toNat * 256 + lo.toNat :=
  append_toNat hi lo

/-! ## Fields as numbers -/

theorem opField_toNat (w : Word) : (opField w).toNat = w.toNat / 4096 := by
  have := w.isLt
  simp [opField, Nat.shiftRight_eq_div_pow]; omega

theorem xField_val (w : Word) : (xField w).val = w.toNat / 256 % 16 := by
  simp [xField, Nat.shiftRight_eq_div_pow]

theorem yField_val (w : Word) : (yField w).val = w.toNat / 16 % 16 := by
  simp [yField, Nat.shiftRight_eq_div_pow]

theorem nField_toNat (w : Word) : (nField w).toNat = w.toNat % 16 := by
  simp [nField, Nat.shiftRight_eq_div_pow]

theorem nnField_toNat (w : Word) : (nnField w).toNat = w.toNat % 256 := by
  simp [nnField, Nat.shiftRight_eq_div_pow]

theorem nnnField_toNat (w : Word) : (nnnField w).toNat = w.toNat % 4096 := by
  simp [nnnField, Nat.shiftRight_eq_div_pow]

/-! ## Fields of encoded words -/

@[simp] theorem opField_encodeNnn (op : BitVec 4) (nnn : BitVec 12) : opField (encodeNnn op nnn) = op := by
  apply BitVec.eq_of_toNat_eq
  have := op.isLt; have := nnn.isLt
  rw [opField_toNat, encodeNnn_toNat]; omega

@[simp] theorem nnnField_encodeNnn (op : BitVec 4) (nnn : BitVec 12) : nnnField (encodeNnn op nnn) = nnn := by
  apply BitVec.eq_of_toNat_eq
  have := nnn.isLt
  rw [nnnField_toNat, encodeNnn_toNat]; omega

@[simp] theorem opField_encodeXnn (op : BitVec 4) (x : Reg) (nn : Byte) : opField (encodeXnn op x nn) = op := by
  apply BitVec.eq_of_toNat_eq
  have := x.isLt; have := nn.isLt
  rw [opField_toNat, encodeXnn_toNat]; omega

@[simp] theorem xField_encodeXnn (op : BitVec 4) (x : Reg) (nn : Byte) : xField (encodeXnn op x nn) = x := by
  apply Fin.ext
  have := x.isLt; have := nn.isLt
  rw [xField_val, encodeXnn_toNat]; omega

@[simp] theorem nnField_encodeXnn (op : BitVec 4) (x : Reg) (nn : Byte) : nnField (encodeXnn op x nn) = nn := by
  apply BitVec.eq_of_toNat_eq
  have := nn.isLt
  rw [nnField_toNat, encodeXnn_toNat]; omega

@[simp] theorem opField_encodeXyn (op : BitVec 4) (x y : Reg) (n : BitVec 4) : opField (encodeXyn op x y n) = op := by
  apply BitVec.eq_of_toNat_eq
  have := x.isLt; have := y.isLt; have := n.isLt
  rw [opField_toNat, encodeXyn_toNat]; omega

@[simp] theorem xField_encodeXyn (op : BitVec 4) (x y : Reg) (n : BitVec 4) : xField (encodeXyn op x y n) = x := by
  apply Fin.ext
  have := x.isLt; have := y.isLt; have := n.isLt
  rw [xField_val, encodeXyn_toNat]; omega

@[simp] theorem yField_encodeXyn (op : BitVec 4) (x y : Reg) (n : BitVec 4) : yField (encodeXyn op x y n) = y := by
  apply Fin.ext
  have := y.isLt; have := n.isLt
  rw [yField_val, encodeXyn_toNat]; omega

@[simp] theorem nField_encodeXyn (op : BitVec 4) (x y : Reg) (n : BitVec 4) : nField (encodeXyn op x y n) = n := by
  apply BitVec.eq_of_toNat_eq
  have := n.isLt
  rw [nField_toNat, encodeXyn_toNat]; omega

/-! ## The bits a row of the table fixes -/

theorem encodeNnn_mask (op : BitVec 4) (nnn : BitVec 12) : encodeNnn op nnn &&& 0xF000 = encodeNnn op 0 := by
  have h : (0xF000 : Word) = 0xF#4 ++ 0#12 := rfl
  rw [h]; unfold encodeNnn
  rw [BitVec.and_append, BitVec.and_zero]
  exact congrArg (fun k : BitVec 4 => (k ++ 0#12 : BitVec (4 + 12))) (BitVec.and_allOnes (x := op))

theorem encodeXnn_maskOp (op : BitVec 4) (x : Reg) (nn : Byte) :
    encodeXnn op x nn &&& 0xF000 = encodeXnn op 0 0 := by
  have h : (0xF000 : Word) = 0xF#4 ++ 0#4 ++ 0#8 := rfl
  rw [h]; unfold encodeXnn
  rw [BitVec.and_append, BitVec.and_append, BitVec.and_zero, BitVec.and_zero]
  exact congrArg (fun k : BitVec 4 => (k ++ 0#4 ++ 0#8 : BitVec (4 + 4 + 8))) (BitVec.and_allOnes (x := op))

theorem encodeXnn_maskOpNn (op : BitVec 4) (x : Reg) (nn : Byte) :
    encodeXnn op x nn &&& 0xF0FF = encodeXnn op 0 nn := by
  have h : (0xF0FF : Word) = 0xF#4 ++ 0#4 ++ 0xFF#8 := rfl
  rw [h]; unfold encodeXnn
  rw [BitVec.and_append, BitVec.and_append, BitVec.and_zero]
  rw [show op &&& 0xF#4 = op from BitVec.and_allOnes, show nn &&& 0xFF#8 = nn from BitVec.and_allOnes]
  rfl

theorem encodeXyn_maskOp (op : BitVec 4) (x y : Reg) (n : BitVec 4) :
    encodeXyn op x y n &&& 0xF000 = encodeXyn op 0 0 0 := by
  have h : (0xF000 : Word) = 0xF#4 ++ 0#4 ++ 0#4 ++ 0#4 := rfl
  rw [h]; unfold encodeXyn
  rw [BitVec.and_append, BitVec.and_append, BitVec.and_append, BitVec.and_zero, BitVec.and_zero, BitVec.and_zero]
  exact congrArg (fun k : BitVec 4 => (k ++ 0#4 ++ 0#4 ++ 0#4 : BitVec (4 + 4 + 4 + 4))) (BitVec.and_allOnes (x := op))

theorem encodeXyn_maskOpN (op : BitVec 4) (x y : Reg) (n : BitVec 4) :
    encodeXyn op x y n &&& 0xF00F = encodeXyn op 0 0 n := by
  have h : (0xF00F : Word) = 0xF#4 ++ 0#4 ++ 0#4 ++ 0xF#4 := rfl
  rw [h]; unfold encodeXyn
  rw [BitVec.and_append, BitVec.and_append, BitVec.and_append, BitVec.and_zero, BitVec.and_zero]
  rw [show op &&& 0xF#4 = op from BitVec.and_allOnes, show n &&& 0xF#4 = n from BitVec.and_allOnes]
  rfl

/-! ## Any word, by its fields -/

/-- A word is its op, register and immediate fields. -/
theorem encodeXnn_fields (w : Word) : encodeXnn (opField w) (xField w) (nnField w) = w := by
  apply BitVec.eq_of_toNat_eq
  rw [encodeXnn_toNat, opField_toNat, xField_val, nnField_toNat]; omega

/-- A word is its four nibbles. -/
theorem encodeXyn_fields (w : Word) : encodeXyn (opField w) (xField w) (yField w) (nField w) = w := by
  apply BitVec.eq_of_toNat_eq
  rw [encodeXyn_toNat, opField_toNat, xField_val, yField_val, nField_toNat]; omega

/-- What the mask `0xF000` leaves. -/
theorem maskOp_toNat (w : Word) : (w &&& 0xF000).toNat = w.toNat / 4096 * 4096 := by
  have h := encodeXnn_maskOp (opField w) (xField w) (nnField w)
  rw [encodeXnn_fields] at h
  rw [h, encodeXnn_toNat, opField_toNat]
  simp

/-- What the mask `0xF0FF` leaves. -/
theorem maskOpNn_toNat (w : Word) : (w &&& 0xF0FF).toNat = w.toNat / 4096 * 4096 + w.toNat % 256 := by
  have h := encodeXnn_maskOpNn (opField w) (xField w) (nnField w)
  rw [encodeXnn_fields] at h
  rw [h, encodeXnn_toNat, opField_toNat, nnField_toNat]
  simp

/-- What the mask `0xF00F` leaves. -/
theorem maskOpN_toNat (w : Word) : (w &&& 0xF00F).toNat = w.toNat / 4096 * 4096 + w.toNat % 16 := by
  have h := encodeXyn_maskOpN (opField w) (xField w) (yField w) (nField w)
  rw [encodeXyn_fields] at h
  rw [h, encodeXyn_toNat, opField_toNat, nField_toNat]
  simp

end Sys2Proof
end

