-- ==== Sys2Proof/Laws/PerInstr.lean ====
section
/-! SUPPORT. One lemma per instruction: its encoded word has, in every bit its row of the decode table fixes, the value
that row gives (R95). -/

/-- The mask of the row of R95; `Nop`, which has no row of its own, fixes nothing (mask 0). -/
def Sys2Proof.Laws.TableMask.mask (i : Sys2Proof.Instr) : Sys2Proof.Word :=
  match i with
  | .nop => 0x0000
  | .clear => 0xFFFF
  | .ret => 0xFFFF
  | .jump _ => 0xF000
  | .call _ => 0xF000
  | .skipEqIm _ _ => 0xF000
  | .skipNeIm _ _ => 0xF000
  | .skipEq _ _ => 0xF00F
  | .loadIm _ _ => 0xF000
  | .addIm _ _ => 0xF000
  | .move _ _ => 0xF00F
  | .or _ _ => 0xF00F
  | .and _ _ => 0xF00F
  | .xor _ _ => 0xF00F
  | .add _ _ => 0xF00F
  | .sub _ _ => 0xF00F
  | .shr _ => 0xF00F
  | .subN _ _ => 0xF00F
  | .shl _ => 0xF00F
  | .skipNe _ _ => 0xF00F
  | .loadI _ => 0xF000
  | .jumpOff _ => 0xF000
  | .rand _ _ => 0xF000
  | .draw _ _ _ => 0xF000
  | .skipPressed _ => 0xF0FF
  | .skipNotPressed _ => 0xF0FF
  | .loadFromDelayTimer _ => 0xF0FF
  | .waitKeypress _ => 0xF0FF
  | .loadDelayTimer _ => 0xF0FF
  | .loadSoundTimer _ => 0xF0FF
  | .addI _ => 0xF0FF
  | .setSpriteAddr _ => 0xF0FF
  | .storeBcd _ => 0xF0FF
  | .storeRegs _ => 0xF0FF
  | .loadRegs _ => 0xF0FF

/-- The match value of the row of R95. -/
def Sys2Proof.Laws.TableMask.value (i : Sys2Proof.Instr) : Sys2Proof.Word :=
  match i with
  | .nop => 0x0000
  | .clear => 0x00E0
  | .ret => 0x00EE
  | .jump _ => 0x1000
  | .call _ => 0x2000
  | .skipEqIm _ _ => 0x3000
  | .skipNeIm _ _ => 0x4000
  | .skipEq _ _ => 0x5000
  | .loadIm _ _ => 0x6000
  | .addIm _ _ => 0x7000
  | .move _ _ => 0x8000
  | .or _ _ => 0x8001
  | .and _ _ => 0x8002
  | .xor _ _ => 0x8003
  | .add _ _ => 0x8004
  | .sub _ _ => 0x8005
  | .shr _ => 0x8006
  | .subN _ _ => 0x8007
  | .shl _ => 0x800E
  | .skipNe _ _ => 0x9000
  | .loadI _ => 0xA000
  | .jumpOff _ => 0xB000
  | .rand _ _ => 0xC000
  | .draw _ _ _ => 0xD000
  | .skipPressed _ => 0xE09E
  | .skipNotPressed _ => 0xE0A1
  | .loadFromDelayTimer _ => 0xF007
  | .waitKeypress _ => 0xF00A
  | .loadDelayTimer _ => 0xF015
  | .loadSoundTimer _ => 0xF018
  | .addI _ => 0xF01E
  | .setSpriteAddr _ => 0xF029
  | .storeBcd _ => 0xF033
  | .storeRegs _ => 0xF055
  | .loadRegs _ => 0xF065

/-- The word of the instruction matches its row: `word AND mask = match`. -/
def Sys2Proof.Laws.TableMask.Statement (i : Sys2Proof.Instr) : Prop :=
  Sys2Proof.encode i &&& Sys2Proof.Laws.TableMask.mask i = Sys2Proof.Laws.TableMask.value i

namespace Sys2Proof.Laws.TableMask

theorem nop : Statement .nop := by unfold Statement; decide
theorem clear : Statement .clear := by unfold Statement; decide
theorem ret : Statement .ret := by unfold Statement; decide
theorem jump (nnn : BitVec 12) : Statement (.jump nnn) := Sys2Proof.encodeNnn_mask _ _
theorem call (nnn : BitVec 12) : Statement (.call nnn) := Sys2Proof.encodeNnn_mask _ _
theorem skipEqIm (x : Sys2Proof.Reg) (nn : Sys2Proof.Byte) : Statement (.skipEqIm x nn) := Sys2Proof.encodeXnn_maskOp _ _ _
theorem skipNeIm (x : Sys2Proof.Reg) (nn : Sys2Proof.Byte) : Statement (.skipNeIm x nn) := Sys2Proof.encodeXnn_maskOp _ _ _
theorem skipEq (x y : Sys2Proof.Reg) : Statement (.skipEq x y) := Sys2Proof.encodeXyn_maskOpN _ _ _ _
theorem loadIm (x : Sys2Proof.Reg) (nn : Sys2Proof.Byte) : Statement (.loadIm x nn) := Sys2Proof.encodeXnn_maskOp _ _ _
theorem addIm (x : Sys2Proof.Reg) (nn : Sys2Proof.Byte) : Statement (.addIm x nn) := Sys2Proof.encodeXnn_maskOp _ _ _
theorem move (x y : Sys2Proof.Reg) : Statement (.move x y) := Sys2Proof.encodeXyn_maskOpN _ _ _ _
theorem or (x y : Sys2Proof.Reg) : Statement (.or x y) := Sys2Proof.encodeXyn_maskOpN _ _ _ _
theorem and (x y : Sys2Proof.Reg) : Statement (.and x y) := Sys2Proof.encodeXyn_maskOpN _ _ _ _
theorem xor (x y : Sys2Proof.Reg) : Statement (.xor x y) := Sys2Proof.encodeXyn_maskOpN _ _ _ _
theorem add (x y : Sys2Proof.Reg) : Statement (.add x y) := Sys2Proof.encodeXyn_maskOpN _ _ _ _
theorem sub (x y : Sys2Proof.Reg) : Statement (.sub x y) := Sys2Proof.encodeXyn_maskOpN _ _ _ _
theorem shr (x : Sys2Proof.Reg) : Statement (.shr x) := Sys2Proof.encodeXyn_maskOpN _ _ _ _
theorem subN (x y : Sys2Proof.Reg) : Statement (.subN x y) := Sys2Proof.encodeXyn_maskOpN _ _ _ _
theorem shl (x : Sys2Proof.Reg) : Statement (.shl x) := Sys2Proof.encodeXyn_maskOpN _ _ _ _
theorem skipNe (x y : Sys2Proof.Reg) : Statement (.skipNe x y) := Sys2Proof.encodeXyn_maskOpN _ _ _ _
theorem loadI (nnn : BitVec 12) : Statement (.loadI nnn) := Sys2Proof.encodeNnn_mask _ _
theorem jumpOff (nnn : BitVec 12) : Statement (.jumpOff nnn) := Sys2Proof.encodeNnn_mask _ _
theorem rand (x : Sys2Proof.Reg) (nn : Sys2Proof.Byte) : Statement (.rand x nn) := Sys2Proof.encodeXnn_maskOp _ _ _
theorem draw (x y : Sys2Proof.Reg) (n : Nat) : Statement (.draw x y n) := Sys2Proof.encodeXyn_maskOp _ _ _ _
theorem skipPressed (x : Sys2Proof.Reg) : Statement (.skipPressed x) := Sys2Proof.encodeXnn_maskOpNn _ _ _
theorem skipNotPressed (x : Sys2Proof.Reg) : Statement (.skipNotPressed x) := Sys2Proof.encodeXnn_maskOpNn _ _ _
theorem loadFromDelayTimer (x : Sys2Proof.Reg) : Statement (.loadFromDelayTimer x) := Sys2Proof.encodeXnn_maskOpNn _ _ _
theorem waitKeypress (x : Sys2Proof.Reg) : Statement (.waitKeypress x) := Sys2Proof.encodeXnn_maskOpNn _ _ _
theorem loadDelayTimer (x : Sys2Proof.Reg) : Statement (.loadDelayTimer x) := Sys2Proof.encodeXnn_maskOpNn _ _ _
theorem loadSoundTimer (x : Sys2Proof.Reg) : Statement (.loadSoundTimer x) := Sys2Proof.encodeXnn_maskOpNn _ _ _
theorem addI (x : Sys2Proof.Reg) : Statement (.addI x) := Sys2Proof.encodeXnn_maskOpNn _ _ _
theorem setSpriteAddr (x : Sys2Proof.Reg) : Statement (.setSpriteAddr x) := Sys2Proof.encodeXnn_maskOpNn _ _ _
theorem storeBcd (x : Sys2Proof.Reg) : Statement (.storeBcd x) := Sys2Proof.encodeXnn_maskOpNn _ _ _
theorem storeRegs (x : Sys2Proof.Reg) : Statement (.storeRegs x) := Sys2Proof.encodeXnn_maskOpNn _ _ _
theorem loadRegs (x : Sys2Proof.Reg) : Statement (.loadRegs x) := Sys2Proof.encodeXnn_maskOpNn _ _ _

end Sys2Proof.Laws.TableMask
end

