-- ==== Sys2Proof/Tests/Slice0.lean ====
section
/-! SUPPORT. Tests: the well-formedness check, decoded words, one-step vectors of 95_test_vectors.md, and a witness for
the hypotheses of every obligation. Expected values come from the spec. -/

namespace Sys2Proof.Tests

-- The tests are checked one after the other: each waits for the declarations before it, and all at once they would
-- take a thread each.
set_option Elab.async false

open Sys2Proof.Machine

/-! ## Helpers -/

/-- The state after reset with the word at `0x200`. -/
def placed (w : Word) : State := State.reset.withFetchWord 16 w.toNat

/-- A state with some general registers set. -/
def withV (s : State) (regs : List (Reg × Byte)) : State := regs.foldl (fun t e => t.setV e.1 e.2) s

/-- A state with some bytes of memory set. -/
def withBytes (s : State) (bytes : List (Nat × Byte)) : State := bytes.foldl (fun t e => t.writeByte e.1 e.2) s

/-- A state at another rate. -/
def atRate (s : State) (hz : Nat) : State := { s with cfg := { s.cfg with targetHz := hz } }

/-- The outcome is a next state with the property. -/
def nextHas (o : Host.Outcome State Fault Refusal) (p : State → Bool) : Bool :=
  match o with
  | .next t => p t
  | .fault _ => false
  | .refused _ => false

/-- The cells of the grid's row that are ON. -/
def onCells (s : State) (row : Fin 32) : List Nat :=
  (List.finRange 64).filterMap (fun col => if Framebuffer.cell s.fb row col then some col.val else none)

/-! ## Well-formedness -/

theorem test_wellFormed_accepts : (Instr.draw 15 15 15).wellFormed = true := by decide
/-- A line count that no 4-bit field holds. -/
theorem test_wellFormed_refuses_sixteen_lines : (Instr.draw 0 0 16).wellFormed = false := by decide

/-! ## Decoding: a word of every row, from the patterns of R95 and the table of 95_test_vectors.md 2.1 -/

theorem test_decode_nop : decode 0x0000 = .nop ∧ decode 0x0123 = .nop ∧ decode 0x8AB8 = .nop := by decide
theorem test_decode_clear : decode 0x00E0 = .clear := by decide
theorem test_decode_ret : decode 0x00EE = .ret := by decide
theorem test_decode_jump : decode 0x1ABC = .jump 0xABC := by decide
theorem test_decode_call : decode 0x2FFF = .call 0xFFF := by decide
theorem test_decode_skipEqIm : decode 0x3A42 = .skipEqIm 10 0x42 := by decide
theorem test_decode_skipNeIm : decode 0x4A42 = .skipNeIm 10 0x42 := by decide
theorem test_decode_skipEq : decode 0x5AB0 = .skipEq 10 11 := by decide
theorem test_decode_loadIm : decode 0x6CFF = .loadIm 12 0xFF := by decide
theorem test_decode_addIm : decode 0x7C01 = .addIm 12 0x01 := by decide
theorem test_decode_move : decode 0x8AB0 = .move 10 11 := by decide
theorem test_decode_or : decode 0x8AB1 = .or 10 11 := by decide
theorem test_decode_and : decode 0x8AB2 = .and 10 11 := by decide
theorem test_decode_xor : decode 0x8AB3 = .xor 10 11 := by decide
theorem test_decode_add : decode 0x8AB4 = .add 10 11 := by decide
theorem test_decode_sub : decode 0x8AB5 = .sub 10 11 := by decide
theorem test_decode_shr : decode 0x8AB6 = .shr 10 ∧ decode 0x8006 = .shr 0 ∧ decode 0x80F6 = .shr 0 := by decide
theorem test_decode_subN : decode 0x8AB7 = .subN 10 11 := by decide
theorem test_decode_shl : decode 0x8ABE = .shl 10 := by decide
theorem test_decode_skipNe : decode 0x9AB0 = .skipNe 10 11 := by decide
theorem test_decode_loadI : decode 0xA123 = .loadI 0x123 := by decide
theorem test_decode_jumpOff : decode 0xB300 = .jumpOff 0x300 := by decide
theorem test_decode_rand : decode 0xC1F0 = .rand 1 0xF0 := by decide
theorem test_decode_draw : decode 0xD015 = .draw 0 1 5 ∧ decode 0xDAB0 = .draw 10 11 0 := by decide
theorem test_decode_skipPressed : decode 0xE19E = .skipPressed 1 := by decide
theorem test_decode_skipNotPressed : decode 0xE1A1 = .skipNotPressed 1 := by decide
theorem test_decode_loadFromDelayTimer : decode 0xF107 = .loadFromDelayTimer 1 := by decide
theorem test_decode_waitKeypress : decode 0xF10A = .waitKeypress 1 := by decide
theorem test_decode_loadDelayTimer : decode 0xF115 = .loadDelayTimer 1 := by decide
theorem test_decode_loadSoundTimer : decode 0xF118 = .loadSoundTimer 1 := by decide
theorem test_decode_addI : decode 0xF11E = .addI 1 := by decide
theorem test_decode_setSpriteAddr : decode 0xF129 = .setSpriteAddr 1 := by decide
theorem test_decode_storeBcd : decode 0xF133 = .storeBcd 1 := by decide
theorem test_decode_storeRegs : decode 0xF155 = .storeRegs 1 := by decide
theorem test_decode_loadRegs : decode 0xF165 = .loadRegs 1 := by decide
/-- One byte is no instruction (R91). -/
theorem test_decode_needs_two_bytes : decodeBytes [0x12] = .error .needsTwoBytes := rfl
/-- The byte at the lower address is the high one (R61). -/
theorem test_decode_big_endian : decodeBytes [0x12, 0x34, 0x56] = .ok (.jump 0x234, [0x56]) := rfl
theorem test_decodeTableWord : decodeTableWord 16 0xD015 = some (.draw 0 1 5) := by decide

/-! ## One step (95_test_vectors.md 2.2 to 2.8) -/

/-- 2.2, first row: `0x5121` under the policy `false`. -/
theorem test_nop_silent :
    nextHas (step (placed 0x5121)) (fun t => t.pc == 0x0202 && t.cycleCount == 1 && t.fault == none) = true := by
  decide +kernel
/-- 2.2, second row: the same word under the policy `true`. -/
theorem test_nop_faults :
    nextHas (step { placed 0x5121 with cfg := { targetHz := 60, unknownOpcodeFaults := true } })
      (fun t => t.pc == 0x0200 && t.cycleCount == 0 &&
        t.fault == some { cause := .decode, fpc := 0x0200, fir := some 0x5121, faddr := none }) = true := by
  decide +kernel
/-- W3: `Clear` with the cell (4,3) ON and VF = 1. -/
theorem test_clear :
    nextHas (step { withV (placed 0x00E0) [(15, 1)] with fb := Framebuffer.setCell State.reset.fb 3 4 true })
      (fun t => onCells t 3 == [] && t.getV 15 == 1 && t.present) = true := by decide +kernel
/-- 2.3: `Return` with one entry. -/
theorem test_ret :
    nextHas (step { placed 0x00EE with SP := 1, stack := State.reset.stack.set 0 0x0206 })
      (fun t => t.pc == 0x0206 && t.SP == 0 && t.stackEntry 0 == 0x0206) = true := by decide +kernel
/-- 2.3: `Return` with the stack empty. -/
theorem test_ret_underflow :
    nextHas (step (placed 0x00EE)) (fun t => t.pc == 0x0200 && t.cycleCount == 0 &&
      t.fault == some { cause := .stackUnderflow, fpc := 0x0200, fir := some 0x00EE, faddr := none }) = true := by
  decide +kernel
theorem test_jump : nextHas (step (placed 0x1ABC)) (fun t => t.pc == 0x0ABC) = true := by decide +kernel
/-- 2.3: a fetch at `0x0FFF`, whatever the byte there (2.9). -/
theorem test_jump_then_fetch_fault :
    nextHas (step { placed 0x1FFF with pc := 0x0FFF }) (fun t => t.pc == 0x0FFF &&
      t.fault == some { cause := .fetch, fpc := 0x0FFF, fir := none, faddr := some 0x1000 }) = true := by decide +kernel
theorem test_call :
    nextHas (step (placed 0x2ABC)) (fun t => t.stackEntry 0 == 0x0202 && t.SP == 1 && t.pc == 0x0ABC) = true := by
  decide +kernel
/-- 2.3: the 17th nested call. -/
theorem test_call_overflow :
    nextHas (step { placed 0x2200 with SP := 16 }) (fun t => t.SP == 16 && t.pc == 0x0200 &&
      t.fault == some { cause := .stackOverflow, fpc := 0x0200, fir := some 0x2200, faddr := none }) = true := by
  decide +kernel
theorem test_skipEqIm : nextHas (step (withV (placed 0x3A42) [(10, 0x42)])) (fun t => t.pc == 0x0204) = true := by
  decide +kernel
theorem test_skipEqIm_not : nextHas (step (withV (placed 0x3A42) [(10, 0x43)])) (fun t => t.pc == 0x0202) = true := by
  decide +kernel
theorem test_skipNeIm : nextHas (step (withV (placed 0x4A42) [(10, 0x43)])) (fun t => t.pc == 0x0204) = true := by
  decide +kernel
theorem test_skipNeIm_not : nextHas (step (withV (placed 0x4A42) [(10, 0x42)])) (fun t => t.pc == 0x0202) = true := by
  decide +kernel
theorem test_skipEq : nextHas (step (withV (placed 0x5AB0) [(10, 7), (11, 7)])) (fun t => t.pc == 0x0204) = true := by
  decide +kernel
theorem test_skipEq_not : nextHas (step (withV (placed 0x5AB0) [(10, 7), (11, 8)])) (fun t => t.pc == 0x0202) = true := by
  decide +kernel
theorem test_skipNe : nextHas (step (withV (placed 0x9AB0) [(10, 7), (11, 8)])) (fun t => t.pc == 0x0204) = true := by
  decide +kernel
theorem test_skipNe_same : nextHas (step (withV (placed 0x9AA0) [(10, 9)])) (fun t => t.pc == 0x0202) = true := by
  decide +kernel
/-- 2.3: the largest sum, which is not reduced. -/
theorem test_jumpOff : nextHas (step (withV (placed 0xBFFF) [(0, 0xFF)])) (fun t => t.pc == 0x10FE) = true := by
  decide +kernel
/-- W5. -/
theorem test_jumpOff_source : nextHas (step (withV (placed 0xB300) [(0, 0x10)])) (fun t => t.pc == 0x0310) = true := by
  decide +kernel
theorem test_loadIm : nextHas (step (withV (placed 0x61AB) [(1, 0x11)])) (fun t => t.getV 1 == 0xAB) = true := by
  decide +kernel
theorem test_addIm_wraps :
    nextHas (step (withV (placed 0x7101) [(1, 0xFF), (15, 7)])) (fun t => t.getV 1 == 0 && t.getV 15 == 7) = true := by
  decide +kernel
theorem test_move :
    nextHas (step (withV (placed 0x8120) [(1, 0x11), (2, 0x22), (15, 9)]))
      (fun t => t.getV 1 == 0x22 && t.getV 2 == 0x22 && t.getV 15 == 9) = true := by decide +kernel
theorem test_or :
    nextHas (step (withV (placed 0x8121) [(1, 0xF0), (2, 0x0F), (15, 1)]))
      (fun t => t.getV 1 == 0xFF && t.getV 15 == 1) = true := by decide +kernel
theorem test_and :
    nextHas (step (withV (placed 0x8122) [(1, 0xF3), (2, 0x3C), (15, 1)]))
      (fun t => t.getV 1 == 0x30 && t.getV 15 == 1) = true := by decide +kernel
theorem test_xor :
    nextHas (step (withV (placed 0x8F23) [(15, 0xFF), (2, 0x0F)])) (fun t => t.getV 15 == 0xF0) = true := by decide +kernel
/-- 2.4: 256 is an overflow. -/
theorem test_add_carry :
    nextHas (step (withV (placed 0x8124) [(1, 0x80), (2, 0x80)])) (fun t => t.getV 1 == 0 && t.getV 15 == 1) = true := by
  decide +kernel
/-- 2.4: with `x = 15` the carry is what stays. -/
theorem test_add_flag_wins :
    nextHas (step (withV (placed 0x8F14) [(15, 0x10), (1, 1)])) (fun t => t.getV 15 == 0 && t.getV 1 == 1) = true := by
  decide +kernel
theorem test_sub_borrow :
    nextHas (step (withV (placed 0x8125) [(1, 0x01), (2, 0xFF)])) (fun t => t.getV 1 == 2 && t.getV 15 == 0) = true := by
  decide +kernel
theorem test_sub_equal :
    nextHas (step (withV (placed 0x8115) [(1, 0x42)])) (fun t => t.getV 1 == 0 && t.getV 15 == 1) = true := by decide +kernel
theorem test_subN :
    nextHas (step (withV (placed 0x8127) [(1, 0x01), (2, 0xFF)])) (fun t => t.getV 1 == 0xFE && t.getV 15 == 1) = true := by
  decide +kernel
theorem test_subN_borrow :
    nextHas (step (withV (placed 0x8127) [(1, 0xFF), (2, 0x01)])) (fun t => t.getV 1 == 2 && t.getV 15 == 0) = true := by
  decide +kernel
theorem test_shr :
    nextHas (step (withV (placed 0x8126) [(1, 0x05), (2, 0xAA)]))
      (fun t => t.getV 1 == 2 && t.getV 15 == 1 && t.getV 2 == 0xAA) = true := by decide +kernel
theorem test_shr_flag_wins : nextHas (step (withV (placed 0x8F06) [(15, 2)])) (fun t => t.getV 15 == 0) = true := by
  decide +kernel
theorem test_shl :
    nextHas (step (withV (placed 0x812E) [(1, 0x81), (2, 0x55)]))
      (fun t => t.getV 1 == 2 && t.getV 15 == 1 && t.getV 2 == 0x55) = true := by decide +kernel
theorem test_shl_flag_wins : nextHas (step (withV (placed 0x8F0E) [(15, 0x7F)])) (fun t => t.getV 15 == 0) = true := by
  decide +kernel
/-- 2.4: `0xC10F` with the draw `0xA7`; and a mask of 0 whatever the draw. -/
theorem test_rand_mask :
    (randWith 0xA7 1 0x0F (placed 0xC10F)).getV 1 = 0x07 ∧ ∀ r : Byte, r &&& (0 : Byte) = 0 := by
  refine ⟨by decide +kernel, fun r => BitVec.and_zero⟩
theorem test_loadI : nextHas (step (placed 0xA123)) (fun t => t.I == 0x0123) = true := by decide +kernel
/-- 2.5: past the end of memory, no flag. -/
theorem test_addI :
    nextHas (step { withV (placed 0xF11E) [(1, 1), (15, 5)] with I := 0x0FFF })
      (fun t => t.I == 0x1000 && t.getV 15 == 5) = true := by decide +kernel
theorem test_addI_wraps :
    nextHas (step { withV (placed 0xF11E) [(1, 0xFF)] with I := 0xFFFF }) (fun t => t.I == 0x00FE) = true := by
  decide +kernel
theorem test_setSpriteAddr :
    nextHas (step (withV (placed 0xF129) [(1, 0xA7)])) (fun t => t.I == 0x0023) = true := by decide +kernel
/-- W2. -/
theorem test_storeBcd :
    nextHas (step { withBytes (withV (placed 0xF133) [(1, 231)]) [(0x303, 0xEE)] with I := 0x300 })
      (fun t => t.readByte 0x300 == 2 && t.readByte 0x301 == 3 && t.readByte 0x302 == 1 && t.readByte 0x303 == 0xEE &&
        t.I == 0x300) = true := by decide +kernel
/-- 2.5: one byte too far, nothing written. -/
theorem test_storeBcd_faults :
    nextHas (step { withV (placed 0xF133) [(1, 255)] with I := 0x0FFE })
      (fun t => t.readByte 0xFFE == 0 && t.readByte 0xFFF == 0 && t.cycleCount == 0 &&
        t.fault == some { cause := .data, fpc := 0x0200, fir := some 0xF133, faddr := some 0x1000 }) = true := by
  decide +kernel
theorem test_storeRegs :
    nextHas (step { withV (placed 0xF355) [(0, 0x10), (1, 0x11), (2, 0x12), (3, 0x13), (4, 0x14)] with I := 0x400 })
      (fun t => t.readByte 0x3FF == 0 && t.readByte 0x400 == 0x10 && t.readByte 0x403 == 0x13 && t.readByte 0x404 == 0 &&
        t.I == 0x400) = true := by decide +kernel
theorem test_storeRegs_faults :
    nextHas (step { withV (placed 0xFF55) [(0, 0x10)] with I := 0x0FF1 })
      (fun t => t.readByte 0xFF1 == 0 &&
        t.fault == some { cause := .data, fpc := 0x0200, fir := some 0xFF55, faddr := some 0x1000 }) = true := by
  decide +kernel
/-- 2.5: the first three bytes of the font (G2). -/
theorem test_loadRegs :
    nextHas (step (withV (placed 0xF265) [(0, 0xEE), (1, 0xEE), (2, 0xEE), (3, 0xEE)]))
      (fun t => t.getV 0 == 0xF0 && t.getV 1 == 0x90 && t.getV 2 == 0x90 && t.getV 3 == 0xEE) = true := by decide +kernel
theorem test_loadRegs_faults :
    nextHas (step { withV (placed 0xF165) [(0, 1), (1, 2)] with I := 0x0FFF })
      (fun t => t.getV 0 == 1 && t.getV 1 == 2 && t.fault.isSome) = true := by decide +kernel
/-- 2.6: read before the tick. -/
theorem test_loadFromDelayTimer :
    nextHas (step { placed 0xF107 with DT := 9 }) (fun t => t.getV 1 == 9 && t.DT == 8) = true := by decide +kernel
/-- 2.6: loaded and ticked in one cycle at 60 Hz, not at 120 Hz. -/
theorem test_loadDelayTimer :
    nextHas (step (withV (placed 0xF115) [(1, 5)])) (fun t => t.DT == 4) = true ∧
      nextHas (step (atRate (withV (placed 0xF115) [(1, 5)]) 120)) (fun t => t.DT == 5) = true := by decide +kernel
/-- 2.6: 1 in a ticking cycle gives no tone. -/
theorem test_loadSoundTimer :
    nextHas (step (withV (placed 0xF118) [(1, 1)])) (fun t => t.ST == 0 && t.tone == false) = true := by decide +kernel
theorem test_loadSoundTimer_tone :
    nextHas (step (atRate (withV (placed 0xF118) [(1, 1)]) 120)) (fun t => t.ST == 1 && t.tone) = true := by decide +kernel
/-- 2.6: at the wrap of the cycle counter. -/
theorem test_tick_at_wrap :
    nextHas (step (atRate { placed 0x1200 with DT := 3, cycleCount := BitVec.allOnes 64 } 120))
      (fun t => t.cycleCount == 0 && t.DT == 2) = true := by decide +kernel
theorem test_skipPressed :
    nextHas (step ((withV (placed 0xE19E) [(1, 15)]).setKey 15 true)) (fun t => t.pc == 0x0204) = true := by decide +kernel
theorem test_skipPressed_faults :
    nextHas (step (withV (placed 0xE19E) [(1, 16)])) (fun t => t.pc == 0x0200 &&
      t.fault == some { cause := .key, fpc := 0x0200, fir := some 0xE19E, faddr := some 16 }) = true := by decide +kernel
theorem test_skipNotPressed : nextHas (step (withV (placed 0xE1A1) [(1, 5)])) (fun t => t.pc == 0x0204) = true := by
  decide +kernel
theorem test_skipNotPressed_held :
    nextHas (step ((withV (placed 0xE1A1) [(1, 5)]).setKey 5 true)) (fun t => t.pc == 0x0202) = true := by decide +kernel
/-- 2.7: a held key is not a release. -/
theorem test_waitKeypress_waits :
    nextHas (step ((placed 0xF10A).setKey 3 true)) (fun t => t.pc == 0x0200 && t.cycleCount == 1 && t.getV 1 == 0) = true := by
  decide +kernel
/-- 2.7: the release arrives in the gap before the cycle. -/
theorem test_waitKeypress_completes :
    nextHas (step { (placed 0xF10A).setKey 0xB true with inputs := [[.release (some 0xB)]] })
      (fun t => t.getV 1 == 0x0B && t.getKey 0xB == false && t.keyReleased == none && t.pc == 0x0202) = true := by
  decide +kernel
/-- W4: the sprite `0xFF` at (60,0) wraps. -/
theorem test_draw_wraps :
    nextHas (step { withBytes (withV (placed 0xD011) [(0, 60)]) [(0x300, 0xFF)] with I := 0x300 })
      (fun t => onCells t 0 == [0, 1, 2, 3, 60, 61, 62, 63] && t.getV 15 == 0 && t.present) = true := by decide +kernel
/-- 2.8: one collision, at (2,0). -/
theorem test_draw_collides :
    nextHas (step { withBytes (placed 0xD121) [(0x300, 0xF0)] with
        I := 0x300, fb := Framebuffer.setCell (Framebuffer.setCell State.reset.fb 0 2 true) 0 5 true })
      (fun t => onCells t 0 == [0, 1, 3, 5] && t.getV 15 == 1) = true := by decide +kernel

/-! ## The throttle (95_test_vectors.md 2.10) -/

/-- A state at 60 Hz with this debt and this window. -/
def paced (debt wtimer : BitVec 64) : State := { State.reset with debt := debt, wtimer := wtimer }

/-- T2: call 1 accumulates, call 3 is slow, call 6 sleeps and oversleeps. -/
theorem test_throttle_paths :
    (throttleEnter 10000000 (paced 0 0)).debt = 6666666 ∧ (throttleEnter 10000000 (paced 0 0)).sleeping = false ∧
      (throttleEnter 50000000 (paced 13333332 20000000)).debt = 0 ∧
      (throttleEnter 61000000 (paced 23333332 60000000)).debt = 38999998 ∧
      (throttleEnter 61000000 (paced 23333332 60000000)).sleeping = true ∧
      (throttleWake 102999998 (throttleEnter 61000000 (paced 23333332 60000000))).wtimer = 102999998 := by decide +kernel
/-- T3: at the threshold, one past it, and one short of the slowdown. -/
theorem test_throttle_boundaries :
    (throttleEnter 16665666 (paced 24999000 0)).sleeping = false ∧
      (throttleEnter 16665665 (paced 24999000 0)).sleeping = true ∧
      (throttleEnter 21666665 (paced 5000000 0)).debt = 1 ∧ (throttleEnter 21666667 (paced 5000000 0)).debt = 0 := by
  decide +kernel

/-! ## Reset and boot (95_test_vectors.md 2.11) -/

theorem test_boot :
    nextHas (boot { targetHz := 600, unknownOpcodeFaults := false } [0x12, 0x00] 1000)
      (fun t => t.readByte 0x000 == 0xF0 && t.readByte 0x04F == 0x80 && t.readByte 0x050 == 0 && t.readByte 0x200 == 0x12 &&
        t.readByte 0x201 == 0 && t.pc == 0x0200 && t.wtimer == 1000 && t.cfg.targetHz == 600) = true := by decide +kernel
theorem test_boot_rates :
    (List.map (fun hz => rateValid { targetHz := hz, unknownOpcodeFaults := false }) [0, 59, 61, 90, 100, 500, 1000, 60, 720])
      = [false, false, false, false, false, false, false, true, true] := by decide +kernel

/-! ## Witnesses: for every obligation with hypotheses, states and operands that meet them, at the ends of each range -/

theorem test_witness_DecodeOfEncode : (Instr.draw 0 0 15).wellFormed = true ∧ (Instr.draw 0 0 0).wellFormed = true := by
  decide
/-- The first and the last row, each matched by a word. -/
theorem test_witness_DecoderAgreesWithTable :
    ∃ r0 r33 : TableRow, tableRows[0]? = some r0 ∧ tableRows[33]? = some r33 ∧ rowMatches r0 0x00E0 = true ∧
      rowMatches r33 0xFF65 = true := ⟨_, _, rfl, rfl, rfl, rfl⟩
/-- A word at the edge of each of the six families of the Nop space. -/
theorem test_witness_NopSpace :
    decode 0x0FFF = .nop ∧ decode 0x5AB1 = .nop ∧ decode 0x8008 = .nop ∧ decode 0x800D = .nop ∧ decode 0x800F = .nop ∧
      decode 0x900F = .nop ∧ decode 0xE09F = .nop ∧ decode 0xF064 = .nop ∧ decode 0x00EE ≠ .nop := by decide
theorem test_witness_EncodeOfDecode : decode 0x81F6 ≠ .nop ∧ decode 0x81FE ≠ .nop ∧ decode 0x1ABC ≠ .nop := by decide
theorem test_witness_StoredWordIsFetched :
    MemoryCanonical { State.reset with pc := 0x0FFE } ∧ ({ State.reset with pc := 0x0FFE } : State).pc.toNat ≤ 0x0FFE := by
  unfold MemoryCanonical; decide
theorem test_witness_BootSetsEveryElement :
    0 < ({ targetHz := 60, unknownOpcodeFaults := true } : EngineConfig).targetHz ∧
      ({ targetHz := 60, unknownOpcodeFaults := true } : EngineConfig).targetHz % 60 = 0 ∧
      (List.replicate 3584 (0xAB : Byte)).length ≤ 3584 :=
  ⟨by decide, by decide, Nat.le_of_eq List.length_replicate⟩
theorem test_witness_BootRefusals :
    ¬(0 < ({ targetHz := 0, unknownOpcodeFaults := true } : EngineConfig).targetHz ∧
        ({ targetHz := 0, unknownOpcodeFaults := true } : EngineConfig).targetHz % 60 = 0) ∧
      ¬(0 < ({ targetHz := 61, unknownOpcodeFaults := true } : EngineConfig).targetHz ∧
        ({ targetHz := 61, unknownOpcodeFaults := true } : EngineConfig).targetHz % 60 = 0) ∧
      3584 < (List.replicate 3585 (0xAB : Byte)).length :=
  ⟨by decide, by decide, by rw [List.length_replicate]; decide⟩
/-- A boot with a ROM image, under the other policy and at another rate. -/
theorem test_witness_ResetMeetsInvariants :
    ∃ t : State, boot { targetHz := 600, unknownOpcodeFaults := true } [0x60, 0x03, 0x12, 0x00] 7 = .next t := ⟨_, rfl⟩
/-- The last fetch in memory; an execute phase without a fault, and one with. -/
theorem test_witness_StepRunsDecodedInstruction :
    ({ State.reset with pc := 0x0FFE } : State).enterGap.ready = true ∧
      ({ State.reset with pc := 0x0FFE } : State).pc.toNat ≤ 0x0FFE ∧ State.reset.fault = none ∧
      (raiseFetchFault State.reset).fault ≠ none := by decide
/-- A cycle that ticks, and one that does not. -/
theorem test_witness_CycleEndUpdates :
    (finishCycle State.reset).cycleCount.toNat % (State.reset.cfg.targetHz / 60) = 0 ∧
      (finishCycle (atRate State.reset 120)).cycleCount.toNat % ((atRate State.reset 120).cfg.targetHz / 60) ≠ 0 := by
  decide +kernel
/-- The two ends of the range that faults, and the lowest address above memory. -/
theorem test_witness_FetchFaultTaken :
    ({ State.reset with pc := 0x0FFF } : State).enterGap.ready = true ∧
      0x0FFE < ({ State.reset with pc := 0x0FFF } : State).pc.toNat ∧
      ({ State.reset with pc := 0x1000 } : State).enterGap.ready = true ∧
      0x0FFE < ({ State.reset with pc := 0x1000 } : State).pc.toNat ∧
      ({ State.reset with pc := 0x10FE } : State).enterGap.ready = true ∧
      0x0FFE < ({ State.reset with pc := 0x10FE } : State).pc.toNat := by decide
theorem test_witness_NoCycleWhenStopped :
    (raiseFetchFault State.reset).fault ≠ none ∧
      (State.reset.fault = none ∧ ({ State.reset with inputs := [[.run false]] } : State).enterGap.run = false) ∧
      ((atRate State.reset 59).fault = none ∧ (atRate State.reset 59).enterGap.run = true ∧
        ¬(0 < (atRate State.reset 59).cfg.targetHz ∧ (atRate State.reset 59).cfg.targetHz % 60 = 0)) ∧
      ((atRate State.reset 0).enterGap.run = true ∧
        ¬(0 < (atRate State.reset 0).cfg.targetHz ∧ (atRate State.reset 0).cfg.targetHz % 60 = 0)) := by decide
/-- The empty list, the gap with two writes of P4 of 95_test_vectors.md, and each kind of write alone. -/
theorem test_witness_GapWritesInputsOnly :
    State.reset.inputs = [] ∧
      ({ State.reset with inputs := [[.key 7 false, .release (some 7)]] } : State).inputs
        = [.key 7 false, .release (some 7)] :: [] ∧
      ({ State.reset with inputs := [[.key 15 true]] } : State).inputs = [.key 15 true] :: [] ∧
      ({ State.reset with inputs := [[.release (some 0)], []] } : State).inputs = [.release (some 0)] :: [[]] ∧
      ({ State.reset with inputs := [[.run false]] } : State).inputs = [.run false] :: [] := by decide
/-- An execute-phase fault, and a fetch fault. -/
theorem test_witness_FaultsArePrecise :
    ((placed 0x00EE).fault = none ∧ ∃ t : State, step (placed 0x00EE) = .next t ∧ t.fault ≠ none) ∧
      ({ State.reset with pc := 0x0FFF } : State).fault = none ∧
      ∃ t : State, step { State.reset with pc := 0x0FFF } = .next t ∧ t.fault ≠ none :=
  ⟨⟨by decide, _, rfl, by decide +kernel⟩, by decide, _, rfl, by decide +kernel⟩

/-- The instruction answers a next state with a fault record. -/
def raises (i : Instr) (s : State) : Prop := s.fault = none ∧ ∃ (t : State) (r : FaultRecord), exec i s = .next t ∧ t.fault = some r

/-- Each raiser of R230 at the edge of its range. -/
theorem test_witness_FaultsAndTheirRaisers :
    raises .nop { State.reset with cfg := { targetHz := 60, unknownOpcodeFaults := true } } ∧
      raises (.call 0) { State.reset with SP := 16 } ∧ raises .ret State.reset ∧
      raises (.draw 0 0 1) { State.reset with I := 0x1000 } ∧ raises (.draw 0 0 15) { State.reset with I := 0x0FF2 } ∧
      raises (.storeBcd 0) { State.reset with I := 0x0FFE } ∧ raises (.storeRegs 15) { State.reset with I := 0x0FF1 } ∧
      raises (.loadRegs 0) { State.reset with I := 0x1000 } ∧ raises (.skipPressed 0) (withV State.reset [(0, 16)]) ∧
      raises (.skipNotPressed 0) (withV State.reset [(0, 255)]) :=
  ⟨⟨rfl, _, _, rfl, rfl⟩, ⟨rfl, _, _, rfl, rfl⟩, ⟨rfl, _, _, rfl, rfl⟩, ⟨rfl, _, _, rfl, rfl⟩, ⟨rfl, _, _, rfl, rfl⟩,
    ⟨rfl, _, _, rfl, rfl⟩, ⟨rfl, _, _, rfl, rfl⟩, ⟨rfl, _, _, rfl, rfl⟩, ⟨rfl, _, _, rfl, rfl⟩, ⟨rfl, _, _, rfl, rfl⟩⟩
/-- A row that marks nothing, a row that marks several elements, and one that faults. -/
theorem test_witness_AccessTableHolds :
    (∃ t : State, exec .nop State.reset = .next t ∧ t.fault = none) ∧ .fb ∉ writes .nop ∧ .pc ∉ writes .nop ∧
      (∃ t : State, exec (.loadRegs 3) State.reset = .next t) ∧ .V 4 ∉ writes (.loadRegs 3) ∧
      .V 3 ∈ writes (.loadRegs 3) ∧ (∃ t : State, exec .ret State.reset = .next t) ∧ .stack ∈ writes .ret :=
  ⟨⟨_, rfl, rfl⟩, by decide, by decide, ⟨_, rfl⟩, by decide, by decide, ⟨_, rfl⟩, by decide⟩
/-- A cycle that completes at the counter's wrap, and one that faults. -/
theorem test_witness_CycleCounterCounts :
    (({ placed 0x1200 with cycleCount := BitVec.allOnes 64 } : State).enterGap.ready = true ∧
      ∃ t : State, step { placed 0x1200 with cycleCount := BitVec.allOnes 64 } = .next t ∧ t.fault = none) ∧
      (placed 0x00EE).enterGap.ready = true ∧ ∃ t : State, step (placed 0x00EE) = .next t ∧ t.fault ≠ none :=
  ⟨⟨by decide +kernel, _, rfl, by decide +kernel⟩, by decide +kernel, _, rfl, by decide +kernel⟩
/-- A tick with the timers at 0 and at 255. -/
theorem test_witness_TimersNeverRise :
    (∃ t : State, step { placed 0x1200 with DT := 0, ST := 255 } = .next t) ∧
      (∀ x, fetchInstr { placed 0x1200 with DT := 0, ST := 255 } ≠ .loadDelayTimer x) ∧
      (∀ x, fetchInstr { placed 0x1200 with DT := 0, ST := 255 } ≠ .loadSoundTimer x) :=
  ⟨⟨_, rfl⟩, by decide +kernel, by decide +kernel⟩
theorem test_witness_ReleaseEventCleared :
    ({ placed 0x6000 with keyReleased := some 4 } : State).enterGap.ready = true ∧
      ∃ t : State, step { placed 0x6000 with keyReleased := some 4 } = .next t ∧ t.fault = none :=
  ⟨by decide +kernel, _, rfl, by decide +kernel⟩
theorem test_witness_ConfigurationConstant :
    (∃ t : State, boot { targetHz := 600, unknownOpcodeFaults := true } [] 7 = .next t) ∧
      ∃ t : State, step (placed 0x00E0) = .next t := ⟨⟨_, rfl⟩, _, rfl⟩
/-- A step that stores at the end of memory. -/
theorem test_witness_MemoryStaysCanonical :
    MemoryCanonical { placed 0xF033 with I := 0x0FFD } ∧ ∃ t : State, step { placed 0xF033 with I := 0x0FFD } = .next t :=
  ⟨by unfold MemoryCanonical; decide +kernel, _, rfl⟩
/-- The 16th nested call, and the largest sum of `JumpOff`. -/
theorem test_witness_StackAndPcStayLegal :
    (StackAndPcLegal { placed 0x2200 with SP := 15 } ∧ ∃ t : State, step { placed 0x2200 with SP := 15 } = .next t) ∧
      StackAndPcLegal (withV (placed 0xBFFF) [(0, 0xFF)]) ∧ ∃ t : State, step (withV (placed 0xBFFF) [(0, 0xFF)]) = .next t :=
  ⟨⟨by unfold StackAndPcLegal; decide +kernel, _, rfl⟩, by unfold StackAndPcLegal; decide +kernel, _, rfl⟩
theorem test_witness_ReadyEngineAlwaysSteps :
    StackAndPcLegal { placed 0x00EE with SP := 16 } ∧ ({ placed 0x00EE with SP := 16 } : State).enterGap.ready = true :=
  ⟨by unfold StackAndPcLegal; decide +kernel, by decide +kernel⟩
theorem test_witness_ToneStaysSampled :
    ToneSampled { placed 0x1200 with ST := 1, tone := true } ∧
      ∃ t : State, step { placed 0x1200 with ST := 1, tone := true } = .next t :=
  ⟨by unfold ToneSampled; decide +kernel, _, rfl⟩
/-- Each of the three paths at the value where it meets its neighbour (T3): the slow branch with no slowdown, the debt at
the threshold, and one above it. -/
theorem test_witness_ThrottlePaths :
    ((paced 0 0).wtimer.toNat ≤ 16666666 ∧ 16666666 < 2 ^ 64 ∧ 1000000000 / (paced 0 0).cfg.targetHz ≤ 16666666 - 0 ∧
      (paced 0 0).debt.toNat ≤ 25000000) ∧
      (16665666 - (paced 24999000 0).wtimer.toNat < 1000000000 / (paced 24999000 0).cfg.targetHz ∧
        (paced 24999000 0).debt.toNat + (1000000000 / (paced 24999000 0).cfg.targetHz - 16665666) = 25000000) ∧
      (16665665 - (paced 24999000 0).wtimer.toNat < 1000000000 / (paced 24999000 0).cfg.targetHz ∧
        25000000 < (paced 24999000 0).debt.toNat + (1000000000 / (paced 24999000 0).cfg.targetHz - 16665665)) := by
  decide +kernel
/-- The same paths at the end of a cycle, whatever the free reading: at a rate with `DUTY = 0` every cycle is slow; with
the window's start at the clock's last value no time can pass, and the debt comes to the threshold or one above it. -/
theorem test_witness_ThrottlePaths_cycle :
    1000000000 / (atRate (paced 0 0) 1000000020).cfg.targetHz
        ≤ clockNow (atRate (paced 0 0) 1000000020) - (paced 0 0).wtimer.toNat ∧
      (clockNow (paced 8333334 (BitVec.allOnes 64)) - (BitVec.allOnes 64).toNat = 0 ∧
        (paced 8333334 (BitVec.allOnes 64)).debt.toNat + (1000000000 / 60 - 0) = 25000000) ∧
      clockNow (paced 8333335 (BitVec.allOnes 64)) - (BitVec.allOnes 64).toNat = 0 ∧
        25000000 < (paced 8333335 (BitVec.allOnes 64)).debt.toNat + (1000000000 / 60 - 0) := by
  have still (d : BitVec 64) : clockNow (paced d (BitVec.allOnes 64)) - (BitVec.allOnes 64).toNat = 0 :=
    Nat.sub_eq_zero_of_le (Nat.le_of_lt_succ (clockNow_bounds (paced d (BitVec.allOnes 64))).2)
  exact ⟨Nat.le_trans (Nat.le_of_eq (by decide)) (Nat.zero_le _), ⟨still _, by decide⟩, still _, by decide⟩
theorem test_witness_DebtStaysBounded :
    DebtBounded { placed 0x1200 with debt := 25000000 } ∧
      ∃ t : State, step { placed 0x1200 with debt := 25000000 } = .next t :=
  ⟨by unfold DebtBounded; decide +kernel, _, rfl⟩
theorem test_witness_ClockNeverRunsBack :
    ∃ t : State, step { placed 0x1200 with wtimer := BitVec.allOnes 64 } = .next t := ⟨_, rfl⟩
theorem test_witness_NopByPolicy :
    State.reset.cfg.unknownOpcodeFaults = false ∧
      ({ State.reset with cfg := { targetHz := 60, unknownOpcodeFaults := true } } : State).cfg.unknownOpcodeFaults = true := by
  decide
/-- The 16th entry, and the 17th that is not there. -/
theorem test_witness_CallPushesOrOverflows :
    ({ State.reset with SP := 15 } : State).SP.toNat < 16 ∧ 16 ≤ ({ State.reset with SP := 16 } : State).SP.toNat := by decide
/-- The oldest entry, the newest one, and none. -/
theorem test_witness_ReturnPopsOrUnderflows :
    (({ State.reset with SP := 1 } : State).SP.toNat - 1 < 16 ∧ 0 < ({ State.reset with SP := 1 } : State).SP.toNat) ∧
      (({ State.reset with SP := 16 } : State).SP.toNat - 1 < 16 ∧ 0 < ({ State.reset with SP := 16 } : State).SP.toNat) ∧
      State.reset.SP.toNat = 0 := by decide
theorem test_witness_CallThenReturnComesBack :
    ({ State.reset with SP := 15 } : State).SP.toNat < 16 ∧
      (0 : Fin 16).val ≠ ({ State.reset with SP := 15 } : State).SP.toNat ∧
      ∃ u : State, exec (.call 0xFFF) { State.reset with SP := 15 } = .next u := ⟨by decide, by decide, _, rfl⟩
theorem test_witness_SkipsOnRegisters : (15 : BitVec 4) ≠ 0 ∧ (1 : BitVec 4) ≠ 0 := by decide
theorem test_witness_AddSumAndCarry : (14 : Reg) ≠ 15 := by decide
theorem test_witness_SubDifferenceAndNotBorrow : (0 : Reg) ≠ 15 := by decide
theorem test_witness_ShiftsAndBitOut : (1 : Reg) ≠ 15 := by decide
theorem test_witness_RandMasksFreeByte : (1 : Reg) ≠ 15 := by decide
theorem test_witness_StoreBcdDigits :
    (({ State.reset with I := 0x0FFD } : State).I.toNat + 2 ≤ 0xFFF ∧ MemoryCanonical { State.reset with I := 0x0FFD }) ∧
      0xFFF < ({ State.reset with I := 0x0FFE } : State).I.toNat + 2 := by unfold MemoryCanonical; decide
theorem test_witness_StoreRegsBlock :
    (({ State.reset with I := 0x0FF0 } : State).I.toNat + (15 : Reg).val ≤ 0xFFF ∧
      MemoryCanonical { State.reset with I := 0x0FF0 }) ∧ (15 : Reg) ≤ 15 ∧
      0xFFF < ({ State.reset with I := 0x0FF1 } : State).I.toNat + (15 : Reg).val := by unfold MemoryCanonical; decide
theorem test_witness_LoadRegsBlock :
    ({ State.reset with I := 0x0FFF } : State).I.toNat + (0 : Reg).val ≤ 0xFFF ∧ (0 : Reg) ≤ 0 ∧ (0 : Reg) < 1 ∧
      0xFFF < ({ State.reset with I := 0x1000 } : State).I.toNat + (0 : Reg).val := by decide
theorem test_witness_StoreThenLoadRegs :
    MemoryCanonical { State.reset with I := 0x0FF0 } ∧
      ({ State.reset with I := 0x0FF0 } : State).I.toNat + (15 : Reg).val ≤ 0xFFF ∧
      ∃ u : State, exec (.storeRegs 15) { State.reset with I := 0x0FF0 } = .next u :=
  ⟨by unfold MemoryCanonical; decide, by decide, _, rfl⟩
theorem test_witness_SkipsOnKey :
    ((withV State.reset [(0, 15)]).getV 0).toNat < 16 ∧ 15 < ((withV State.reset [(0, 16)]).getV 0).toNat := by
  decide +kernel
theorem test_witness_WaitKeypressCompletesOrRewinds :
    ({ State.reset with keyReleased := some 15 } : State).keyReleased = some 15 ∧ State.reset.keyReleased = none ∧
      (0 : Key) ≠ 15 := by decide
/-- No row at any `I`, the last sprite of 15 rows that fits, the first that does not; a sprite bit on a cell that is ON,
and a grid with no cell ON. -/
theorem test_witness_DrawClosedForm :
    (0 < 16 ∧ 15 < 16) ∧ (15 = 0 ∨ ({ State.reset with I := 0x0FF1 } : State).I.toNat + (15 - 1) ≤ 0xFFF) ∧
      0xFFF < ({ State.reset with I := 0x0FF2 } : State).I.toNat + (15 - 1) ∧
      (drawnBit State.reset 63 31 1 31 63 = true ∧ Framebuffer.cell (Framebuffer.setCell State.reset.fb 31 63 true) 31 63 = true) ∧
      Framebuffer.cell State.reset.fb 31 63 = false := by decide +kernel
theorem test_witness_DrawTwiceRestoresGrid :
    15 < 16 ∧ (0 : Reg) ≠ 15 ∧ (1 : Reg) ≠ 15 ∧
      (15 = 0 ∨ ({ State.reset with I := 0x0FF1 } : State).I.toNat + (15 - 1) ≤ 0xFFF) ∧
      ∃ u : State, exec (.draw 0 1 15) { State.reset with I := 0x0FF1 } = .next u :=
  ⟨by decide, by decide, by decide, by decide, _, rfl⟩
theorem test_witness_ReturnAboveLegalDepthStops : 16 < ({ State.reset with SP := 17 } : State).SP.toNat := by decide

end Sys2Proof.Tests
end

section
/-! PROOFS. The engine's progress (R2, R120, R232) and the three paths of the Pacing Throttle (R256 to R259). -/

namespace Sys2Proof.Machine

/-! ## Progress -/

/-- `Return` within the legal range of `SP` pops or underflows (R24, R143). -/
theorem execRet_next {s : State} (h : s.SP.toNat ≤ 16) : ∃ t : State, execRet s = .next t := by
  unfold execRet
  split
  · exact ⟨_, rfl⟩
  · rw [dif_pos (by omega)]
    exact ⟨_, rfl⟩

/-- With a legal `SP` every instruction answers a next state: `Return` alone has a path that stops (R24; log 13). -/
theorem exec_next {s : State} (h : s.SP.toNat ≤ 16) (i : Instr) : ∃ t : State, exec i s = .next t := by
  cases i
  case ret => exact execRet_next h
  all_goals exact ⟨_, rfl⟩

/-- A cycle whose execute phase answers a next state is completed, by its end or by its fault (R120, R232). -/
theorem completeCycle_next (u : State) :
    completeCycle (.next u) = .next (if u.fault.isSome then u else finishCycle u) := rfl

/-- Settles O26: a ready engine's fetch faults, which is a next state, or an instruction runs, which at a legal `SP`
answers one. -/
theorem readyEngineAlwaysSteps : Obligations.ReadyEngineAlwaysSteps := by
  intro s hlegal hready
  obtain ⟨hsp, -, -⟩ := hlegal
  rw [step_of_ready hready]
  split
  · exact ⟨_, rfl⟩
  · have hsp' : (advancePc (startCycle s.enterGap)).SP.toNat ≤ 16 := by
      simpa only [advancePc, startCycle, State.setPc_SP, enterGap_SP] using hsp
    obtain ⟨u, hu⟩ := exec_next hsp' (fetchInstr (startCycle s.enterGap))
    rw [hu, completeCycle_next]
    exact ⟨_, rfl⟩

/-! ## The throttle's entry (R256) -/

theorem dutyNs_le (c : EngineConfig) : dutyNs c ≤ 1000000000 := Nat.div_le_self _ _

theorem fastBranch_of_slow {s : State} {t0 : Nat} (h : dutyNs s.cfg ≤ elapsedAt s t0) : fastBranch s t0 = false :=
  decide_eq_false (Nat.not_lt.mpr h)

theorem fastBranch_of_fast {s : State} {t0 : Nat} (h : elapsedAt s t0 < dutyNs s.cfg) : fastBranch s t0 = true :=
  decide_eq_true h

/-- The slow branch spends the slowdown, and the debt does not go below 0 (R256). -/
theorem debtAt_of_slow {s : State} {t0 : Nat} (h : dutyNs s.cfg ≤ elapsedAt s t0) :
    debtAt s t0 = if elapsedAt s t0 - dutyNs s.cfg ≤ s.debt.toNat then
      s.debt.toNat - (elapsedAt s t0 - dutyNs s.cfg) else 0 := by
  simp only [debtAt, fastBranch_of_slow h, Bool.false_eq_true, if_false, ge_iff_le]

/-- The fast branch adds the surplus (R256). -/
theorem debtAt_of_fast {s : State} {t0 : Nat} (h : elapsedAt s t0 < dutyNs s.cfg) :
    debtAt s t0 = s.debt.toNat + (dutyNs s.cfg - elapsedAt s t0) := by
  simp only [debtAt, fastBranch_of_fast h, if_true]

/-- The debt never exceeds `THRESHOLD + DUTY`, even before a sleep (R259). -/
theorem debtAt_le {s : State} (hd : DebtBounded s) (t0 : Nat) : debtAt s t0 ≤ throttleThreshold + dutyNs s.cfg := by
  unfold DebtBounded at hd
  unfold debtAt
  split
  · omega
  · split <;> omega

/-- So 64 bits hold it (R259). -/
theorem throttleEnter_debt_toNat {s : State} (hd : DebtBounded s) (t0 : Nat) :
    (throttleEnter t0 s).debt.toNat = debtAt s t0 := by
  have hle := debtAt_le hd t0
  have hduty := dutyNs_le s.cfg
  unfold throttleThreshold at hle
  exact Nat.mod_eq_of_lt (by omega)

theorem throttleEnter_wtimer_toNat (s : State) {t0 : Nat} (h : t0 < 2 ^ 64) : (throttleEnter t0 s).wtimer.toNat = t0 :=
  Nat.mod_eq_of_lt h

theorem throttleEnter_sleeping_of_slow {s : State} {t0 : Nat} (h : dutyNs s.cfg ≤ elapsedAt s t0) :
    (throttleEnter t0 s).sleeping = false := by
  simp only [throttleEnter, fastBranch_of_slow h, Bool.false_and]

/-- The fast branch sleeps when the debt is above the threshold, not at it (R256). -/
theorem throttleEnter_sleeping_of_fast {s : State} {t0 : Nat} (h : elapsedAt s t0 < dutyNs s.cfg) :
    (throttleEnter t0 s).sleeping = decide (throttleThreshold < s.debt.toNat + (dutyNs s.cfg - elapsedAt s t0)) := by
  simp only [throttleEnter, fastBranch_of_fast h, debtAt_of_fast h, Bool.true_and, gt_iff_lt]

/-! ## The throttle's end (R256, R258) -/

theorem throttleWake_of_awake (t1 : Nat) {s : State} (h : s.sleeping = false) : throttleWake t1 s = s := by
  simp only [throttleWake, h, Bool.false_eq_true, if_false]
  rw [← h]

theorem throttleWake_debt_of_asleep (t1 : Nat) {s : State} (h : s.sleeping = true) : (throttleWake t1 s).debt = 0 := by
  simp only [throttleWake, h, if_true]

theorem throttleWake_wtimer_of_asleep {t1 : Nat} {s : State} (h : s.sleeping = true) (ht : t1 < 2 ^ 64) :
    (throttleWake t1 s).wtimer.toNat = t1 := by
  simp only [throttleWake, h, if_true]
  exact Nat.mod_eq_of_lt ht

/-- The throttle changes `debt`, `wtimer` and `sleeping` alone. -/
theorem throttleWake_throttleEnter_eq (t0 t1 : Nat) (s : State) : throttleWake t1 (throttleEnter t0 s) = { s with
    debt := (throttleWake t1 (throttleEnter t0 s)).debt
    wtimer := (throttleWake t1 (throttleEnter t0 s)).wtimer
    sleeping := false } := rfl

/-! ## The three paths (R256) -/

section Paths
variable {s : State} {t0 t1 : Nat} (hd : DebtBounded s) (h0 : t0 < 2 ^ 64)
include hd h0

/-- Without a sleep the debt is that of the branch, and the window starts at the entry sample. -/
theorem throttle_of_awake (ha : (throttleEnter t0 s).sleeping = false) :
    (throttleWake t1 (throttleEnter t0 s)).debt.toNat = debtAt s t0 ∧
      (throttleWake t1 (throttleEnter t0 s)).wtimer.toNat = t0 := by
  rw [throttleWake_of_awake t1 ha]
  exact ⟨throttleEnter_debt_toNat hd t0, throttleEnter_wtimer_toNat s h0⟩

/-- The slow branch. -/
theorem throttle_of_slow (h : dutyNs s.cfg ≤ elapsedAt s t0) :
    (throttleWake t1 (throttleEnter t0 s)).debt.toNat = (if elapsedAt s t0 - dutyNs s.cfg ≤ s.debt.toNat then
      s.debt.toNat - (elapsedAt s t0 - dutyNs s.cfg) else 0) ∧
      (throttleWake t1 (throttleEnter t0 s)).wtimer.toNat = t0 :=
  debtAt_of_slow h ▸ throttle_of_awake hd h0 (throttleEnter_sleeping_of_slow h)

/-- The fast branch that accumulates silently. -/
theorem throttle_of_fast_awake (h : elapsedAt s t0 < dutyNs s.cfg)
    (hle : s.debt.toNat + (dutyNs s.cfg - elapsedAt s t0) ≤ throttleThreshold) :
    (throttleWake t1 (throttleEnter t0 s)).debt.toNat = s.debt.toNat + (dutyNs s.cfg - elapsedAt s t0) ∧
      (throttleWake t1 (throttleEnter t0 s)).wtimer.toNat = t0 :=
  debtAt_of_fast h ▸ throttle_of_awake hd h0 ((throttleEnter_sleeping_of_fast h).trans (decide_eq_false (by omega)))

end Paths

/-- The fast branch that sleeps. -/
theorem throttle_of_fast_asleep {s : State} {t0 t1 : Nat} (h1 : t1 < 2 ^ 64) (h : elapsedAt s t0 < dutyNs s.cfg)
    (hlt : throttleThreshold < s.debt.toNat + (dutyNs s.cfg - elapsedAt s t0)) :
    (throttleWake t1 (throttleEnter t0 s)).debt = 0 ∧ (throttleWake t1 (throttleEnter t0 s)).wtimer.toNat = t1 := by
  have hs : (throttleEnter t0 s).sleeping = true := (throttleEnter_sleeping_of_fast h).trans (decide_eq_true hlt)
  exact ⟨throttleWake_debt_of_asleep t1 hs, throttleWake_wtimer_of_asleep hs h1⟩

/-- Settles O28: each path by its lemma, for the throttle itself and for the cycle's end, whose throttle is that of the
entry sample `clockNow`. -/
theorem throttlePaths : Obligations.ThrottlePaths := by
  refine ⟨?_, ?_⟩
  · rintro s t t0 t1 _ _ - h0 h1 rfl rfl hd rfl
    refine ⟨fun h => ?_, fun h hle => ?_, fun h hlt => ?_, throttleWake_throttleEnter_eq t0 t1 s⟩
    · obtain ⟨hdebt, hw⟩ := throttle_of_slow (t1 := t1) hd h0 h
      exact ⟨hdebt, hw, throttleEnter_sleeping_of_slow h⟩
    · obtain ⟨hdebt, hw⟩ := throttle_of_fast_awake (t1 := t1) hd h0 h hle
      exact ⟨hdebt, hw, (throttleEnter_sleeping_of_fast h).trans (decide_eq_false (Nat.not_lt.mpr hle))⟩
    · obtain ⟨hdebt, hw⟩ := throttle_of_fast_asleep h1 h hlt
      exact ⟨hdebt, hw, (throttleEnter_sleeping_of_fast h).trans (decide_eq_true hlt)⟩
  · rintro u t _ _ _ rfl rfl rfl hd rfl
    obtain ⟨hlo, h0⟩ := clockNow_bounds u
    obtain ⟨t1, hwake, h1, hdebt, hw⟩ := finishCycle_throttle u
    rw [hdebt, hw]
    refine ⟨hlo, h0, throttle_of_slow hd h0, throttle_of_fast_awake hd h0, fun h hlt => ?_⟩
    obtain ⟨hzero, ht1⟩ := throttle_of_fast_asleep h1 h hlt
    rw [throttleEnter_debt_toNat hd, debtAt_of_fast h] at hwake
    exact ⟨hzero, ht1.symm ▸ hwake⟩

end Sys2Proof.Machine
end

section
/-! PROOFS. The access table (R37), and what every step keeps of the configuration and of memory's form (R25, R34). -/

namespace Sys2Proof.Machine

/-! ## Frames by the elements of the access table (R37) -/

/-- Every element that the list does not name is the same in both states. Where a field is unchanged by computation its
proof is left to the default, so a record update needs the written field alone. -/
structure OnlyWrites (es : List Element) (s t : State) : Prop where
  V : ∀ r : Reg, .V r ∉ es → t.getV r = s.getV r := by exact fun _ _ => rfl
  I : .I ∉ es → t.I = s.I := by exact fun _ => rfl
  pc : .pc ∉ es → t.pc = s.pc := by exact fun _ => rfl
  stack : .stack ∉ es → t.SP = s.SP ∧ t.stack = s.stack := by exact fun _ => ⟨rfl, rfl⟩
  mem : .mem ∉ es → SameMemory s t := by exact fun _ _ => rfl
  DT : .DT ∉ es → t.DT = s.DT := by exact fun _ => rfl
  ST : .ST ∉ es → t.ST = s.ST := by exact fun _ => rfl
  keypad : .keypad ∉ es → t.keypad = s.keypad := by exact fun _ => rfl
  fb : .fb ∉ es → t.fb = s.fb := by exact fun _ => rfl

theorem OnlyWrites.unchanged {es : List Element} {s t : State} (h : OnlyWrites es s t) {e : Element} (he : e ∉ es) :
    Unchanged e s t := by
  cases e with
  | V r => exact h.V r he
  | I => exact h.I he
  | pc => exact h.pc he
  | stack => exact h.stack he
  | mem => exact h.mem he
  | DT => exact h.DT he
  | ST => exact h.ST he
  | keypad => exact h.keypad he
  | fb => exact h.fb he

theorem OnlyWrites.refl (es : List Element) (s : State) : OnlyWrites es s s := {}

theorem OnlyWrites.trans {es : List Element} {s t u : State} (h : OnlyWrites es s t) (h' : OnlyWrites es t u) :
    OnlyWrites es s u where
  V r hr := (h'.V r hr).trans (h.V r hr)
  I he := (h'.I he).trans (h.I he)
  pc he := (h'.pc he).trans (h.pc he)
  stack he := ⟨(h'.stack he).1.trans (h.stack he).1, (h'.stack he).2.trans (h.stack he).2⟩
  mem he a := (h'.mem he a).trans (h.mem he a)
  DT he := (h'.DT he).trans (h.DT he)
  ST he := (h'.ST he).trans (h.ST he)
  keypad he := (h'.keypad he).trans (h.keypad he)
  fb he := (h'.fb he).trans (h.fb he)

section Updates
variable {es : List Element} (s : State)

theorem onlyWrites_setV {x : Reg} (h : .V x ∈ es) (b : Byte) : OnlyWrites es s (s.setV x b) where
  V r hr := State.getV_setV_of_ne s b fun hrx => hr (hrx ▸ h)

theorem onlyWrites_setResultFlag {x : Reg} (hx : .V x ∈ es) (hf : .V vf ∈ es) (b : Byte) (p : Bool) :
    OnlyWrites es s (s.setResultFlag x b p) :=
  (onlyWrites_setV s hx b).trans (onlyWrites_setV _ hf _)

theorem onlyWrites_setI (h : .I ∈ es) (w : Word) : OnlyWrites es s (s.setI w) where
  I := absurd h

theorem onlyWrites_setPc (h : .pc ∈ es) (w : Word) : OnlyWrites es s (s.setPc w) where
  pc := absurd h

theorem onlyWrites_skipIf (h : .pc ∈ es) (p : Bool) : OnlyWrites es s (s.skipIf p) := by
  cases p
  · exact .refl es s
  · exact onlyWrites_setPc s h _

theorem onlyWrites_setDT (h : .DT ∈ es) (b : Byte) : OnlyWrites es s (s.setDT b) where
  DT := absurd h

theorem onlyWrites_setST (h : .ST ∈ es) (b : Byte) : OnlyWrites es s (s.setST b) where
  ST := absurd h

theorem onlyWrites_setKey (h : .keypad ∈ es) (k : Key) (held : Bool) : OnlyWrites es s (s.setKey k held) where
  keypad := absurd h

theorem onlyWrites_push (h : .stack ∈ es) (k : Fin 16) (w : Word) : OnlyWrites es s (s.push k w) where
  stack := absurd h

theorem onlyWrites_popTo (hp : .pc ∈ es) (hs : .stack ∈ es) (w : Word) : OnlyWrites es s (s.popTo w) where
  pc := absurd hp
  stack := absurd hs

theorem onlyWrites_display (h : .fb ∈ es) (f : Framebuffer) : OnlyWrites es s (s.display f) where
  fb := absurd h

theorem onlyWrites_setCollision (h : .V vf ∈ es) (hit : Bool) : OnlyWrites es s (s.setCollision hit) := by
  cases hit
  · exact .refl es s
  · exact onlyWrites_setV s h _

theorem onlyWrites_mem (h : .mem ∈ es) (m : Memory) : OnlyWrites es s { s with mem := m } where
  mem := absurd h

/-- A block load writes the registers its offsets name (R186). -/
theorem onlyWrites_loadBlock (offsets : List Nat) (h : ∀ k ∈ offsets, .V (regAt k) ∈ es) :
    OnlyWrites es s (loadBlock offsets s) := by
  induction offsets generalizing s with
  | nil => exact .refl es s
  | cons k rest ih =>
    exact (onlyWrites_setV s (h k List.mem_cons_self) _).trans (ih _ fun j hj => h j (List.mem_cons_of_mem _ hj))

end Updates

/-! ## The access table -/

/-- The row of `LoadRegs(x)` names `V[0]`..`V[x]`. -/
theorem mem_writes_loadRegs {x r : Reg} : .V r ∈ writes (.loadRegs x) ↔ r ≤ x := by
  simp [writes]

/-- The state of a fault, or one in which at most the named elements have changed. -/
def FaultsOrWrites (es : List Element) (s t : State) : Prop :=
  (∃ c a, t = FaultedFrom s c a) ∨ OnlyWrites es s t

theorem faultsOrWrites_of_fault (es : List Element) (s : State) (c : FaultCause) (a : Option Nat) :
    FaultsOrWrites es s (raiseFault s c a) := .inl ⟨c, a, rfl⟩

theorem faultsOrWrites_ite {es : List Element} {s t u : State} {p : Prop} [Decidable p] (ht : FaultsOrWrites es s t)
    (hu : FaultsOrWrites es s u) : FaultsOrWrites es s (if p then t else u) := by
  split
  · exact ht
  · exact hu

theorem faultsOrWrites_skipOnKey {es : List Element} (h : .pc ∈ es) (s : State) (b : Byte) (p : Bool) :
    FaultsOrWrites es s (skipOnKey s b p) := by
  rcases skipOnKey_cases s b p with ⟨-, he⟩ | ⟨hb, he⟩
  · exact .inl ⟨_, _, he⟩
  · exact .inr (he ▸ onlyWrites_skipIf s h _)

/-- `Return` underflows, or pops the entry below `SP` (R143). -/
theorem execRet_next_cases {s t : State} (h : execRet s = .next t) :
    t = FaultedFrom s .stackUnderflow none ∨
      ∃ k : Fin 16, s.SP.toNat = k.val + 1 ∧ t = s.popTo (s.stackEntry k) := by
  unfold execRet at h
  split at h
  · injection h with h
    exact .inl h.symm
  · next hne =>
    split at h
    · next hlt =>
      injection h with h
      exact .inr ⟨⟨s.SP.toNat - 1, hlt⟩, (Nat.sub_add_cancel (by omega)).symm, h.symm⟩
    · cases h

/-- `Call` overflows, or pushes the `pc` of the instruction after it (R142). -/
theorem execCall_next_cases {nnn : BitVec 12} {s t : State} (h : execCall nnn s = .next t) :
    t = FaultedFrom s .stackOverflow none ∨
      ∃ k : Fin 16, s.SP.toNat = k.val ∧ t = (s.push k s.pc).setPc (zextAddr nnn) := by
  injection h with h
  split at h
  · exact .inr ⟨_, rfl, h.symm⟩
  · exact .inl h.symm

/-- If an instruction answers a next state, it has taken a fault or written at most what its row of R37 marks. -/
theorem exec_writes {i : Instr} {s t : State} (h : exec i s = .next t) : FaultsOrWrites (writes i) s t := by
  cases i
  case ret =>
    rcases execRet_next_cases h with rfl | ⟨k, -, rfl⟩
    · exact faultsOrWrites_of_fault _ s _ _
    · exact .inr (onlyWrites_popTo s List.mem_cons_self (by simp) _)
  case call =>
    rcases execCall_next_cases h with rfl | ⟨k, -, rfl⟩
    · exact faultsOrWrites_of_fault _ s _ _
    · exact .inr ((onlyWrites_push s (by simp [writes]) _ _).trans (onlyWrites_setPc _ List.mem_cons_self _))
  all_goals (injection h with h; subst h)
  case nop => exact faultsOrWrites_ite (faultsOrWrites_of_fault _ s _ _) (.inr (.refl _ s))
  case clear => exact .inr (onlyWrites_display s List.mem_cons_self _)
  case jump | jumpOff => exact .inr (onlyWrites_setPc s List.mem_cons_self _)
  case skipEqIm | skipNeIm | skipEq | skipNe => exact .inr (onlyWrites_skipIf s List.mem_cons_self _)
  case skipPressed | skipNotPressed => exact faultsOrWrites_skipOnKey List.mem_cons_self s _ _
  case loadIm | addIm | move | or | and | xor | loadFromDelayTimer =>
    exact .inr (onlyWrites_setV s List.mem_cons_self _)
  case rand => exact .inr ((onlyWrites_setV s List.mem_cons_self _).trans {})
  case add | sub | subN | shr | shl =>
    exact .inr (onlyWrites_setResultFlag s List.mem_cons_self (by simp) _ _)
  case loadI | addI | setSpriteAddr => exact .inr (onlyWrites_setI s List.mem_cons_self _)
  case loadDelayTimer => exact .inr (onlyWrites_setDT s List.mem_cons_self _)
  case loadSoundTimer => exact .inr (onlyWrites_setST s List.mem_cons_self _)
  case draw =>
    exact faultsOrWrites_ite (.inr ((onlyWrites_display s (by simp [writes]) _).trans
      (onlyWrites_setCollision _ List.mem_cons_self _))) (faultsOrWrites_of_fault _ s _ _)
  case waitKeypress =>
    split
    · exact .inr ((onlyWrites_setKey s (by simp [writes]) _ _).trans (onlyWrites_setV _ List.mem_cons_self _))
    · exact .inr (onlyWrites_setPc s (by simp [writes]) _)
  case storeBcd =>
    exact faultsOrWrites_ite (.inr (onlyWrites_mem s List.mem_cons_self _)) (faultsOrWrites_of_fault _ s _ _)
  case storeRegs =>
    refine faultsOrWrites_ite (.inr ?_) (faultsOrWrites_of_fault _ s _ _)
    rw [storeBlock_eq]
    exact onlyWrites_mem s List.mem_cons_self _
  case loadRegs x =>
    refine faultsOrWrites_ite (.inr (onlyWrites_loadBlock s _ fun k hk => ?_)) (faultsOrWrites_of_fault _ s _ _)
    have hkx : k ≤ x.val := mem_regsUpTo.mp hk
    rw [mem_writes_loadRegs, Fin.le_def, regAt_val (by omega)]
    exact hkx

/-- A fault of the execute phase changes `pc` alone of the table's elements, back to the instruction (R232). -/
theorem onlyWrites_faultedFrom (s : State) (c : FaultCause) (a : Option Nat) :
    OnlyWrites [.pc] s (FaultedFrom s c a) where
  pc := absurd List.mem_cons_self

/-- An element that the row of the instruction does not mark is unchanged, by a fault too, but for `pc` (R37). -/
theorem exec_unchanged {i : Instr} {s t : State} (h : exec i s = .next t) {e : Element} (he : e ∉ writes i)
    (hpc : e ≠ .pc) : Unchanged e s t := by
  rcases exec_writes h with ⟨c, a, rfl⟩ | hw
  · exact (onlyWrites_faultedFrom s c a).unchanged (by simpa using hpc)
  · exact hw.unchanged he

/-- The elements outside the table that no instruction changes, by a fault or otherwise (R28, R30, R33, R34, R260). -/
theorem exec_eq_outside_table {i : Instr} {s t : State} (h : exec i s = .next t) :
    t.keyReleased = s.keyReleased ∧ t.cycleCount = s.cycleCount ∧ t.debt = s.debt ∧ t.wtimer = s.wtimer ∧
      t.tone = s.tone ∧ t.sleeping = s.sleeping ∧ t.run = s.run ∧ t.cfg = s.cfg ∧ t.inputs = s.inputs ∧
      t.clockReads = s.clockReads := by
  rcases exec_next_cases h with ⟨c, a, -, rfl⟩ | hw
  · exact ⟨rfl, rfl, rfl, rfl, rfl, rfl, rfl, rfl, rfl, rfl⟩
  · rw [hw]
    exact ⟨rfl, rfl, rfl, rfl, rfl, rfl, rfl, rfl, rfl, rfl⟩

/-- Settles O18: an instruction takes a fault, which moves `pc` alone, or writes at most its row of the table. -/
theorem accessTableHolds : Obligations.AccessTableHolds := by
  intro i s t h
  refine ⟨fun e he hpc => exec_unchanged h he hpc, fun hpc hfault => ?_, exec_eq_outside_table h⟩
  rcases exec_writes h with ⟨c, a, rfl⟩ | hw
  · exact absurd hfault (FaultedFrom_fault_ne_none s c a)
  · exact hw.pc hpc

/-! ## What a step keeps -/

/-- Settles O24: of all that a step does, the instruction alone writes memory. -/
theorem memoryStaysCanonical : Obligations.MemoryStaysCanonical := by
  intro s t hs h
  have hgap : Memory.wf s.enterGap.mem = true := (enterGap_mem s).symm ▸ hs
  obtain ⟨-, -, -, ⟨-, rfl⟩ | ⟨-, -, rfl⟩ | ⟨-, -, u, hu, ⟨-, rfl⟩ | ⟨-, rfl⟩⟩⟩ := step_next_cases h
  · exact hgap
  · exact hgap
  · exact exec_mem_wf hu hgap
  · rw [MemoryCanonical, finishCycle_mem]
    exact exec_mem_wf hu hgap

/-- An instruction keeps the configuration (R34). -/
theorem exec_cfg {i : Instr} {s t : State} (h : exec i s = .next t) : t.cfg = s.cfg := by
  obtain ⟨-, -, -, -, -, -, -, hcfg, -, -⟩ := exec_eq_outside_table h
  exact hcfg

/-- Settles O23: `boot` latches the configuration, and no part of a step writes it. -/
theorem configurationConstant : Obligations.ConfigurationConstant := by
  refine ⟨fun cfg rom now t h => ?_, fun s t h => ?_⟩
  · obtain ⟨-, -, rfl⟩ := boot_next_cases h
    rfl
  · obtain ⟨-, -, -, ⟨-, rfl⟩ | ⟨-, -, rfl⟩ | ⟨-, -, u, hu, ⟨-, rfl⟩ | ⟨-, rfl⟩⟩⟩ := step_next_cases h
    · exact enterGap_cfg s
    · exact enterGap_cfg s
    · exact (exec_cfg hu).trans (enterGap_cfg s)
    · exact (finishCycle_cfg u).trans ((exec_cfg hu).trans (enterGap_cfg s))

end Sys2Proof.Machine
end

section
/-! PROOFS. The stack and `pc` in their legal ranges (R23, R24, R143), step by step. -/

namespace Sys2Proof.Machine

/-! ## What an instruction does to the stack and to `pc` -/

/-- The stack after an instruction: as before, with `pc` pushed, or with its top popped (R142, R143). -/
theorem exec_stack_cases {i : Instr} {s t : State} (h : exec i s = .next t) :
    (t.SP = s.SP ∧ t.stack = s.stack) ∨
      (∃ k : Fin 16, s.SP.toNat = k.val ∧ t.SP = s.SP + 1 ∧ t.stack = s.stack.set k s.pc) ∨
      (s.SP.toNat ≠ 0 ∧ t.SP = s.SP - 1 ∧ t.stack = s.stack) := by
  by_cases hw : Element.stack ∈ writes i
  · cases i
    case call =>
      rcases execCall_next_cases h with rfl | ⟨k, hk, rfl⟩
      · exact .inl ⟨rfl, rfl⟩
      · exact .inr (.inl ⟨k, hk, rfl, rfl⟩)
    case ret =>
      rcases execRet_next_cases h with rfl | ⟨k, hk, rfl⟩
      · exact .inl ⟨rfl, rfl⟩
      · exact .inr (.inr ⟨by omega, rfl, rfl⟩)
    all_goals simp [writes] at hw
  · exact .inl (exec_unchanged h hw nofun)

/-- Where an instruction leaves `pc` (R140 to R149, R212, R232): past itself, past the next instruction, or at itself;
at a 12-bit target, without or with an offset; at the entry below `SP`. -/
def PcSuccessor (s : State) (w : Word) : Prop :=
  (w = s.pc ∨ w = s.pc + 2 ∨ w = s.pc - 2) ∨
    (∃ nnn, w = zextAddr nnn) ∨ (∃ nnn b, w = zextAddr nnn + zextByte b) ∨
      ∃ k : Fin 16, s.SP.toNat = k.val + 1 ∧ w = s.stackEntry k

theorem pcSuccessor_skipIf (s : State) (p : Bool) : PcSuccessor s (s.skipIf p).pc := by
  cases p
  · exact .inl (.inl rfl)
  · exact .inl (.inr (.inl rfl))

theorem pcSuccessor_faultedFrom (s : State) (c : FaultCause) (a : Option Nat) :
    PcSuccessor s (FaultedFrom s c a).pc := .inl (.inr (.inr rfl))

theorem pcSuccessor_skipOnKey (s : State) (b : Byte) (p : Bool) : PcSuccessor s (skipOnKey s b p).pc := by
  rcases skipOnKey_cases s b p with ⟨-, he⟩ | ⟨hb, he⟩ <;> rw [he]
  · exact pcSuccessor_faultedFrom s _ _
  · exact pcSuccessor_skipIf s _

/-- Where its row does not mark `pc`, only a fault moves it; the others go where their rules say. -/
theorem exec_pcSuccessor {i : Instr} {s t : State} (h : exec i s = .next t) : PcSuccessor s t.pc := by
  by_cases hw : Element.pc ∈ writes i
  · cases i
    case ret =>
      rcases execRet_next_cases h with rfl | ⟨k, hk, rfl⟩
      · exact pcSuccessor_faultedFrom s _ _
      · exact .inr (.inr (.inr ⟨k, hk, rfl⟩))
    case call nnn =>
      rcases execCall_next_cases h with rfl | ⟨k, -, rfl⟩
      · exact pcSuccessor_faultedFrom s _ _
      · exact .inr (.inl ⟨nnn, rfl⟩)
    all_goals (injection h with h; subst h)
    case jump nnn => exact .inr (.inl ⟨nnn, rfl⟩)
    case jumpOff nnn => exact .inr (.inr (.inl ⟨nnn, _, rfl⟩))
    case skipEqIm | skipNeIm | skipEq | skipNe => exact pcSuccessor_skipIf s _
    case skipPressed | skipNotPressed => exact pcSuccessor_skipOnKey s _ _
    case waitKeypress =>
      split
      · exact .inl (.inl rfl)
      · exact .inl (.inr (.inr rfl))
    all_goals simp [writes] at hw
  · rcases exec_writes h with ⟨c, a, rfl⟩ | hunch
    · exact pcSuccessor_faultedFrom s c a
    · exact .inl (.inl (hunch.pc hw))

/-! ## The ranges -/

/-- The live stack entries are addresses that a `Call` can push (R24, R142). -/
def LiveEntriesLegal (s : State) : Prop := ∀ k : Fin 16, k.val < s.SP.toNat → (s.stackEntry k).toNat ≤ 0x1000

/-- During the execute phase `pc` is past a fetched word, so in 2..0x1000 (R121); every successor is at most 0x10FE, the
farthest `JumpOff` (R23, R144). -/
theorem PcSuccessor.le {s : State} {w : Word} (h : PcSuccessor s w) (hlo : 2 ≤ s.pc.toNat) (hhi : s.pc.toNat ≤ 0x1000)
    (hlive : LiveEntriesLegal s) : w.toNat ≤ 0x10FE := by
  rcases h with (rfl | rfl | rfl) | ⟨nnn, rfl⟩ | ⟨nnn, b, rfl⟩ | ⟨k, hk, rfl⟩
  · omega
  · bv_omega
  · bv_omega
  · have := nnn.isLt
    rw [zextAddr_toNat]; omega
  · have := nnn.isLt
    have := b.isLt
    rw [BitVec.toNat_add, zextAddr_toNat, zextByte_toNat]; omega
  · have := hlive k (by omega)
    omega

/-- An instruction keeps `SP` in 0..16 and the live entries legal: what it pushes is its own `pc` (R24, R142, R143). -/
theorem exec_stackLegal {i : Instr} {s t : State} (h : exec i s = .next t) (hsp : s.SP.toNat ≤ 16)
    (hpc : s.pc.toNat ≤ 0x1000) (hlive : LiveEntriesLegal s) : t.SP.toNat ≤ 16 ∧ LiveEntriesLegal t := by
  unfold LiveEntriesLegal State.stackEntry at *
  rcases exec_stack_cases h with ⟨hSP, hstack⟩ | ⟨k, hk, hSP, hstack⟩ | ⟨hne, hSP, hstack⟩ <;> rw [hSP, hstack]
  · exact ⟨hsp, hlive⟩
  · have hSP' : (s.SP + 1).toNat = k.val + 1 := by have := k.isLt; bv_omega
    rw [hSP']
    refine ⟨k.isLt, fun j hj => ?_⟩
    rw [Fin.getElem_fin, Vector.getElem_set]
    split
    · exact hpc
    · exact hlive j (by omega)
  · have hSP' : (s.SP - 1).toNat = s.SP.toNat - 1 := by bv_omega
    rw [hSP']
    exact ⟨by omega, fun j hj => hlive j (by omega)⟩

/-- Settles O25: only the instruction moves `SP`, the stack and `pc`, each to a legal value; a sleep's end and a fetch
fault leave them alone. -/
theorem stackAndPcStayLegal : Obligations.StackAndPcStayLegal := by
  rintro s t ⟨hsp, hpc, hlive⟩ h
  have hgap : StackAndPcLegal s.enterGap := by
    unfold StackAndPcLegal State.stackEntry
    rw [enterGap_SP, enterGap_pc, enterGap_stack]
    exact ⟨hsp, hpc, hlive⟩
  obtain ⟨hsp', hpc', hlive'⟩ := hgap
  obtain ⟨-, -, -, ⟨-, rfl⟩ | ⟨-, -, rfl⟩ | ⟨-, hfetch, u, hu, hend⟩⟩ := step_next_cases h
  · exact ⟨hsp', hpc', hlive'⟩
  · exact ⟨hsp', hpc', hlive'⟩
  · have hadv : (advancePc (startCycle s.enterGap)).pc = s.pc + 2 := by simp [advancePc, startCycle]
    have hpc2 : (s.pc + 2).toNat = s.pc.toNat + 2 := by bv_omega
    rw [← hadv] at hpc2
    obtain ⟨hspu, hliveu⟩ := exec_stackLegal hu hsp' (by omega) hlive'
    have hlegal : StackAndPcLegal u := ⟨hspu, (exec_pcSuccessor hu).le (by omega) (by omega) hlive', hliveu⟩
    rcases hend with ⟨-, rfl⟩ | ⟨-, rfl⟩
    · exact hlegal
    · unfold StackAndPcLegal State.stackEntry
      rw [finishCycle_SP, finishCycle_pc, finishCycle_stack]
      exact hlegal

end Sys2Proof.Machine
end

section
/-! PROOFS. Reset and boot (R36, R280 to R286), the gap (R40, R42), the stop of log 13, and what no instruction reads
(R30, R33, R35). -/

namespace Sys2Proof.Machine

/-! ## Reset and boot -/

/-- Accepted inputs leave reset: the converse of `boot_next_cases` (R284, R286). -/
theorem boot_of_accepted {cfg : EngineConfig} {rom : List Byte} (now : BitVec 64) (hpos : 0 < cfg.targetHz)
    (hmod : cfg.targetHz % 60 = 0) (hlen : rom.length ≤ romMax) : boot cfg rom now =
      .next { State.reset with cfg := cfg, mem := copyBytes rom 0x200 [], wtimer := now } := by
  have hvalid : rateValid cfg = true := by simp [rateValid, hpos, hmod]
  rw [boot, if_neg (by simp [hvalid]), if_neg (by omega)]

theorem reset_getV (r : Reg) : State.reset.getV r = 0 := by simp [State.getV, State.reset]

theorem reset_stackEntry (k : Fin 16) : State.reset.stackEntry k = 0 := by simp [State.stackEntry, State.reset]

theorem reset_getKey (k : Key) : State.reset.getKey k = false := by simp [State.getKey, State.reset]

theorem reset_cell (row : Fin 32) (col : Fin 64) : Framebuffer.cell State.reset.fb row col = false :=
  Framebuffer.cell_allOff row col

section Image
variable {rom : List Byte} (hlen : rom.length ≤ romMax)
include hlen

/-- Memory after boot: the image at 0x200, every other byte as at reset (R36, R284). -/
theorem read_bootImage (a : Nat) : Memory.read (copyBytes rom 0x200 []) a =
    if h : 0x200 ≤ a ∧ a < 0x200 + rom.length then rom[a - 0x200] else Memory.initial a :=
  copyBytes_read rom Memory.wf_nil (by unfold romMax at hlen; omega) a

theorem read_bootImage_inside {j : Nat} (h : j < rom.length) :
    Memory.read (copyBytes rom 0x200 []) (0x200 + j) = rom[j] := by
  rw [read_bootImage hlen, dif_pos (by omega)]
  simp only [Nat.add_sub_cancel_left]

theorem read_bootImage_outside {a : Nat} (h : a < 0x200 ∨ 0x200 + rom.length ≤ a) :
    Memory.read (copyBytes rom 0x200 []) a = Memory.initial a := by
  rw [read_bootImage hlen, dif_neg (by omega)]

end Image

/-- Settles O8: boot answers reset with its latched inputs, and the image lies above the font. -/
theorem bootSetsEveryElement : Obligations.BootSetsEveryElement := by
  intro cfg rom now hpos hmod hlen
  refine ⟨_, boot_of_accepted now hpos hmod hlen, reset_getV, rfl, rfl, rfl, reset_stackEntry, rfl, rfl, reset_getKey,
    rfl, reset_cell, rfl, rfl, rfl, rfl, rfl, rfl, rfl, rfl, fun a ha => ?_, fun a hlo hhi => ?_, fun j hj => ?_,
    fun a hlo _ => ?_⟩
  · exact read_bootImage_outside hlen (.inl (by omega))
  · exact (read_bootImage_outside hlen (.inl hhi)).trans (Memory.initial_eq_zero hlo)
  · exact read_bootImage_inside hlen hj
  · exact (read_bootImage_outside hlen (.inr hlo)).trans (Memory.initial_eq_zero (by omega))

theorem reset_stackAndPcLegal : StackAndPcLegal State.reset :=
  ⟨by decide, by decide, fun k _ => by rw [reset_stackEntry]; decide⟩

/-- Settles O10: beside the configuration, the image and the clock's origin, what boot answers is reset itself. -/
theorem resetMeetsInvariants : Obligations.ResetMeetsInvariants := by
  refine ⟨⟨rfl, reset_stackAndPcLegal, Nat.zero_le _, rfl, rfl, by decide⟩, fun cfg rom now t h => ?_⟩
  obtain ⟨hvalid, -, rfl⟩ := boot_next_cases h
  exact ⟨copyBytes_wf rom 0x200 Memory.wf_nil, reset_stackAndPcLegal, Nat.zero_le _, rfl, rfl,
    (State.ready_iff _).mpr ⟨rfl, rfl, hvalid, rfl⟩⟩

/-! ## The gap -/

theorem enterGap_of_nil {s : State} (h : s.inputs = []) : s.enterGap = s := by
  rw [State.enterGap, h]

theorem enterGap_of_cons {s : State} {ws : List GapWrite} {later : List (List GapWrite)} (h : s.inputs = ws :: later) :
    s.enterGap = applyWrites ws { s with inputs := later } := by
  rw [State.enterGap, h]

theorem applyWrites_append (ws vs : List GapWrite) (s : State) :
    applyWrites (ws ++ vs) s = applyWrites vs (applyWrites ws s) := by
  induction ws generalizing s with
  | nil => rfl
  | cons w rest ih => exact ih (applyWrite s w)

/-- Settles O15: the frame is `enterGap_eq`; each kind of write is the one it applies. -/
theorem gapWritesInputsOnly : Obligations.GapWritesInputsOnly := by
  refine ⟨enterGap_eq, fun s => enterGap_of_nil, fun s ws later => enterGap_of_cons, fun s k held later h => ?_,
    fun s e later => enterGap_of_cons, fun s level later => enterGap_of_cons, fun s ws vs => applyWrites_append ws vs s⟩
  rw [enterGap_of_cons h]
  exact ⟨rfl, fun j => State.getKey_setKey { s with inputs := later } k j held⟩

/-! ## The stop of `Return` (log 13) -/

/-- Settles O60: neither branch of `Return` that answers a state is open above depth 16. -/
theorem returnAboveLegalDepthStops : Obligations.ReturnAboveLegalDepthStops := by
  intro s h
  rw [exec, execRet, if_neg (by omega), dif_neg (by omega)]

/-! ## What no instruction reads -/

/-- The state with the cycle counter, the throttle's part and the tone replaced. -/
def withCounters (cc d w : BitVec 64) (k : Nat) (tone : Bool) (s : State) : State :=
  { s with cycleCount := cc, debt := d, wtimer := w, clockReads := k, tone := tone }

section Counters
variable (cc d w : BitVec 64) (k : Nat) (tone : Bool)

theorem skipIf_withCounters (s : State) (p : Bool) :
    (withCounters cc d w k tone s).skipIf p = withCounters cc d w k tone (s.skipIf p) := by
  cases p <;> rfl

theorem skipOnKey_withCounters (s : State) (b : Byte) (p : Bool) :
    skipOnKey (withCounters cc d w k tone s) b p = withCounters cc d w k tone (skipOnKey s b p) := by
  unfold skipOnKey
  split
  · exact skipIf_withCounters cc d w k tone s _
  · rfl

theorem setCollision_withCounters (s : State) (hit : Bool) :
    (withCounters cc d w k tone s).setCollision hit = withCounters cc d w k tone (s.setCollision hit) := by
  cases hit <;> rfl

theorem storeBlock_withCounters (offsets : List Nat) (s : State) :
    storeBlock offsets (withCounters cc d w k tone s) = withCounters cc d w k tone (storeBlock offsets s) := by
  induction offsets generalizing s with
  | nil => rfl
  | cons j rest ih => exact ih (s.writeByte (s.dataAddr j) (s.getV (regAt j)))

theorem loadBlock_withCounters (offsets : List Nat) (s : State) :
    loadBlock offsets (withCounters cc d w k tone s) = withCounters cc d w k tone (loadBlock offsets s) := by
  induction offsets generalizing s with
  | nil => rfl
  | cons j rest ih => exact ih (s.setV (regAt j) (s.readByte (s.dataAddr j)))

/-- The sprite's loops read the sprite's bytes of the state, and nothing else of it. -/
theorem drawRows_withCounters (s : State) (x0 y0 : Byte) (rows : List Nat) (c : Canvas) :
    drawRows (withCounters cc d w k tone s) x0 y0 rows c = drawRows s x0 y0 rows c := by
  induction rows generalizing c with
  | nil => rfl
  | cons r rest ih => exact ih _

theorem drawSprite_withCounters (s : State) (x0 y0 : Byte) (n : Nat) :
    drawSprite (withCounters cc d w k tone s) x0 y0 n = drawSprite s x0 y0 n :=
  drawRows_withCounters cc d w k tone s x0 y0 _ _

/-- Two branches that each commute with a change of state commute as one. -/
theorem next_ite_of_branches {f : State → State} {p : Prop} [Decidable p] {t t' u u' : State} (ht : t' = f t)
    (hu : u' = f u) :
    (.next (if p then t' else u') : Host.Outcome State Fault Refusal) = mapNext f (.next (if p then t else u)) := by
  rw [ht, hu, mapNext, apply_ite f]

/-- Every instruction commutes with the replacement: what it reads and tests is outside the replaced fields. -/
theorem exec_withCounters (i : Instr) (s : State) :
    exec i (withCounters cc d w k tone s) = mapNext (withCounters cc d w k tone) (exec i s) := by
  cases i
  case nop => exact next_ite_of_branches rfl rfl
  case call nnn =>
    simp only [exec, execCall, mapNext, apply_dite (withCounters cc d w k tone)]
    rfl
  case ret =>
    simp only [exec, execRet, apply_ite (mapNext _), apply_dite (mapNext _)]
    rfl
  case skipEqIm | skipNeIm | skipEq | skipNe => exact congrArg _ (skipIf_withCounters cc d w k tone s _)
  case skipPressed | skipNotPressed => exact congrArg _ (skipOnKey_withCounters cc d w k tone s _ _)
  case waitKeypress x =>
    have hk : (withCounters cc d w k tone s).keyReleased = s.keyReleased := rfl
    simp only [exec, execWaitKeypress, hk]
    cases s.keyReleased <;> rfl
  case draw x y n =>
    refine next_ite_of_branches ?_ rfl
    rw [drawSprite_withCounters]
    exact setCollision_withCounters cc d w k tone (s.display _) _
  case storeBcd => exact next_ite_of_branches rfl rfl
  case storeRegs => exact next_ite_of_branches (storeBlock_withCounters cc d w k tone _ s) rfl
  case loadRegs => exact next_ite_of_branches (loadBlock_withCounters cc d w k tone _ s) rfl
  all_goals rfl

end Counters

/-- Settles O19: the replacement of the statement is `withCounters`, with which every instruction commutes. -/
theorem noInstructionReadsCounters : Obligations.NoInstructionReadsCounters := by
  intro i s cc d w k tone
  exact exec_withCounters cc d w k tone i s

end Sys2Proof.Machine
end

section
/-! PROOFS. The fetch: the big-endian word at `pc` (R61, R71, R121), and the fault before it (R121, R232, R234). -/

namespace Sys2Proof.Machine

/-! ## The fetched word -/

/-- The fetch decodes the two bytes at `pc`, the first as the high one (R61, R121). -/
theorem fetchInstr_eq (s : State) :
    fetchInstr s = decode (wordOfBytes (s.readByte s.pc.toNat) (s.readByte (s.pc.toNat + 1))) := rfl

/-- The word of two bytes as a number is the first times 256, and the second (R61). -/
theorem wordOfBytes_eq_ofNat (hi lo : Byte) : wordOfBytes hi lo = BitVec.ofNat 16 (hi.toNat * 256 + lo.toNat) := by
  rw [← wordOfBytes_toNat, BitVec.ofNat_toNat, BitVec.setWidth_eq]

/-- A word stored in memory, high byte first, reads back as its two bytes (R61, R71). -/
theorem readByte_storedWord {s : State} (hwf : Memory.wf s.mem = true) {a : Nat} (ha : a + 1 < 4096) (hi lo : Byte) :
    ((s.writeByte a hi).writeByte (a + 1) lo).readByte a = hi ∧
      ((s.writeByte a hi).writeByte (a + 1) lo).readByte (a + 1) = lo := by
  have hwf' : Memory.wf (s.writeByte a hi).mem = true := Memory.write_wf a hi hwf
  constructor
  · rw [State.readByte_writeByte_of_ne _ _ (by omega), State.readByte_writeByte _ _ _ hwf (by omega), if_pos rfl]
  · rw [State.readByte_writeByte _ _ _ hwf' ha, if_pos rfl]

/-- Settles O7: neither store moves `pc`, and the two bytes it names read back. -/
theorem storedWordIsFetched : Obligations.StoredWordIsFetched := by
  intro s hi lo hwf hpc
  obtain ⟨hhi, hlo⟩ := readByte_storedWord hwf (a := s.pc.toNat) (by omega) hi lo
  rw [fetchInstr_eq, State.writeByte_pc, State.writeByte_pc, hhi, hlo, wordOfBytes_eq_ofNat]

/-! ## The fetch fault -/

theorem fetchFaults_iff (s : State) : fetchFaults s = true ↔ 0x0FFE < s.pc.toNat := decide_eq_true_iff

/-- The lowest address above `0xFFF` that the fetch would touch (R234): of `pc` and `pc + 1`, the second when `pc` is the
last byte of memory. -/
theorem max_fetchAddr (a : Nat) : max a 0x1000 = if a < 0x1000 then 0x1000 else a := by
  split
  · exact Nat.max_eq_right (by omega)
  · exact Nat.max_eq_left (by omega)

/-- Settles O13: with `pc` out of range a ready step is the fetch's own fault, on the state of the cycle's start. -/
theorem fetchFaultTaken : Obligations.FetchFaultTaken := by
  intro s hready hpc
  have hfetch : fetchFaults (startCycle s.enterGap) = true := by
    rwa [fetchFaults_iff, startCycle, enterGap_pc]
  rw [step_of_ready hready, if_pos hfetch, ← max_fetchAddr, ← enterGap_pc s]
  rfl

end Sys2Proof.Machine
end

section
/-! PROOFS. The decoder, its table and the encoder (R92 to R104). Decoding an encoded instruction goes by the fields of
its word. For O2 to O4, `ReadsAs` says what the table makes of a word: it is one instruction, the keyed decoder answers
it, and what is left of each statement is a fact about the rows. -/

namespace Sys2Proof

/-! ## The round trip -/

/-- A well-formed line count is a value of the 4-bit field (R92, R94). -/
theorem lineCount_lt {x y : Reg} {n : Nat} (h : (Instr.draw x y n).wellFormed = true) : n < 16 := of_decide_eq_true h

/-- Settles O1: the word's fields are the operands it was made of, so each family's key finds its instruction again. -/
theorem decodeOfEncode : Obligations.DecodeOfEncode := by
  intro i hwf
  cases i
  case nop | clear | ret => decide
  case jump | call | loadI | jumpOff => simp [encode, decode]
  case skipEqIm | skipNeIm | loadIm | addIm | rand => simp [encode, decode]
  case skipEq | skipNe => simp [encode, decode]
  case draw => simp [encode, decode, Nat.mod_eq_of_lt (lineCount_lt hwf)]
  case move | or | and | xor | add | sub | shr | subN | shl => simp [encode, decode, decodeFamily8]
  case skipPressed | skipNotPressed => simp [encode, decode, decodeFamilyE]
  case loadFromDelayTimer | waitKeypress | loadDelayTimer | loadSoundTimer => simp [encode, decode, decodeFamilyF]
  case addI | setSpriteAddr | storeBcd | storeRegs | loadRegs => simp [encode, decode, decodeFamilyF]

/-- Settles O5: the low nibble alone tells the shifts apart within family 8. -/
theorem shiftWordsIgnoreY : Obligations.ShiftWordsIgnoreY := by
  refine ⟨fun x y => ⟨?shr, ?shl⟩, by decide, by decide⟩
  case shr => simp [decode, decodeFamily8]
  case shl => simp [decode, decodeFamily8]

/-- Settles O6, word by word. -/
theorem writtenWordsDecode : Obligations.WrittenWordsDecode := by
  unfold Obligations.WrittenWordsDecode
  and_intros <;> decide

/-! ## Rows that match -/

theorem rowMatches_iff (r : TableRow) (w : Word) :
    rowMatches r w = true ↔ (w &&& r.mask).toNat = r.value.toNat := by
  rw [rowMatches, beq_iff_eq, BitVec.toNat_inj]

/-- What the mask `0xFFFF` leaves. -/
theorem maskAll_toNat (w : Word) : (w &&& 0xFFFF).toNat = w.toNat :=
  congrArg BitVec.toNat (BitVec.and_allOnes (x := w))

theorem rowMatches_all (v : Word) (build : Word → Instr) : rowMatches ⟨0xFFFF, v, build⟩ v = true := by
  rw [rowMatches_iff, maskAll_toNat]

theorem rowMatches_op {w v : Word} {build : Word → Instr} {op : Nat} (hop : (opField w).toNat = op)
    (hv : op * 4096 = v.toNat) : rowMatches ⟨0xF000, v, build⟩ w = true := by
  rw [rowMatches_iff, maskOp_toNat, ← opField_toNat, hop, hv]

theorem rowMatches_opN {w v : Word} {build : Word → Instr} {op n : Nat} (hop : (opField w).toNat = op)
    (hn : (nField w).toNat = n) (hv : op * 4096 + n = v.toNat) : rowMatches ⟨0xF00F, v, build⟩ w = true := by
  rw [rowMatches_iff, maskOpN_toNat, ← opField_toNat, ← nField_toNat, hop, hn, hv]

theorem rowMatches_opNn {w v : Word} {build : Word → Instr} {op : Nat} {nn : Byte} (hop : (opField w).toNat = op)
    (hnn : nnField w = nn) (hv : op * 4096 + nn.toNat = v.toNat) : rowMatches ⟨0xF0FF, v, build⟩ w = true := by
  rw [rowMatches_iff, maskOpNn_toNat, ← opField_toNat, ← nnField_toNat, hop, hnn, hv]

/-! ## Rows do not overlap -/

/-- A word that matches two rows has both values in the bits both masks keep. -/
theorem values_agree_of_rowMatches {r r' : TableRow} {w : Word} (h : rowMatches r w = true)
    (h' : rowMatches r' w = true) : r.value &&& r'.mask = r'.value &&& r.mask := by
  rw [rowMatches, beq_iff_eq] at h h'
  rw [← h, ← h', BitVec.and_assoc, BitVec.and_assoc, BitVec.and_comm r.mask]

/-- Any two rows differ in a bit that both masks keep (R95). -/
theorem tableRows_pairwise_differ : tableRows.Pairwise fun r r' => r.value &&& r'.mask ≠ r'.value &&& r.mask := by
  decide

/-- "The rows do not overlap" (R95). -/
theorem rowIndex_unique {w : Word} {j k : Nat} {r r' : TableRow} (hj : tableRows[j]? = some r)
    (hk : tableRows[k]? = some r') (h : rowMatches r w = true) (h' : rowMatches r' w = true) : j = k := by
  have hdiffer := List.pairwise_iff_getElem.1 tableRows_pairwise_differ
  have hagree := values_agree_of_rowMatches h h'
  obtain ⟨hjlt, rfl⟩ := List.getElem?_eq_some_iff.1 hj
  obtain ⟨hklt, rfl⟩ := List.getElem?_eq_some_iff.1 hk
  rcases Nat.lt_trichotomy j k with hlt | heq | hgt
  · exact absurd hagree (hdiffer j k hjlt hklt hlt)
  · exact heq
  · exact absurd hagree.symm (hdiffer k j hklt hjlt hgt)

/-! ## What a word reads as -/

/-- The six families of the Nop space (R98 to R101). -/
def NopWord (w : Word) : Prop :=
  (w.toNat / 4096 = 0x0 ∧ w.toNat ≠ 0x00E0 ∧ w.toNat ≠ 0x00EE) ∨
    (w.toNat / 4096 = 0x5 ∧ w.toNat % 16 ≠ 0) ∨
    (w.toNat / 4096 = 0x8 ∧ ((0x8 ≤ w.toNat % 16 ∧ w.toNat % 16 ≤ 0xD) ∨ w.toNat % 16 = 0xF)) ∨
    (w.toNat / 4096 = 0x9 ∧ w.toNat % 16 ≠ 0) ∨
    (w.toNat / 4096 = 0xE ∧ w.toNat % 256 ∉ [0x9E, 0xA1]) ∨
    (w.toNat / 4096 = 0xF ∧ w.toNat % 256 ∉ [0x07, 0x0A, 0x15, 0x18, 0x1E, 0x29, 0x33, 0x55, 0x65])

/-- What the table says of a word (R95, R101): it is a row's instruction, or `Nop` in the Nop space. -/
inductive ReadsAs (w : Word) : Instr → Prop
  | row (k : Nat) {r : TableRow} {i : Instr} (hr : tableRows[k]? = some r) (hm : rowMatches r w = true)
      (hi : r.build w = i) : ReadsAs w i
  | nop (h : NopWord w) : ReadsAs w .nop

theorem ReadsAs.ite {w : Word} {c : Prop} [Decidable c] {i j : Instr} (hi : c → ReadsAs w i)
    (hj : ¬ c → ReadsAs w j) : ReadsAs w (if c then i else j) := by
  split
  next h => exact hi h
  next h => exact hj h

/-! ## The decoder reads as the table says -/

theorem nField_eq_iff (w : Word) (n : BitVec 4) : nField w = n ↔ w.toNat % 16 = n.toNat := by
  rw [← BitVec.toNat_inj, nField_toNat]

theorem nnField_eq_iff (w : Word) (nn : Byte) : nnField w = nn ↔ w.toNat % 256 = nn.toNat := by
  rw [← BitVec.toNat_inj, nnField_toNat]

/-- Families 5 and 9 are legal with `n = 0` alone (R100). -/
theorem nopWord_of_fixedN {w : Word} (hop : (opField w).toNat = 0x5 ∨ (opField w).toNat = 0x9) (hn : nField w ≠ 0) :
    NopWord w := by
  simp only [opField_toNat, ne_eq, nField_eq_iff, BitVec.reduceToNat] at hop hn
  unfold NopWord
  omega

theorem decodeFamily0_readsAs {w : Word} (hop : (opField w).toNat = 0x0) : ReadsAs w (decodeFamily0 w) := by
  unfold decodeFamily0
  refine .ite (fun h => h ▸ .row 0 rfl (rowMatches_all _ _) rfl) fun hE0 => ?_
  refine .ite (fun h => h ▸ .row 1 rfl (rowMatches_all _ _) rfl) fun hEE => ?_
  rw [opField_toNat] at hop
  exact .nop (.inl ⟨hop, fun h => hE0 (BitVec.eq_of_toNat_eq h), fun h => hEE (BitVec.eq_of_toNat_eq h)⟩)

theorem decodeFamily8_readsAs {w : Word} (hop : (opField w).toNat = 0x8) : ReadsAs w (decodeFamily8 w) := by
  unfold decodeFamily8
  split
  next hn => exact .row 9 rfl (rowMatches_opN hop hn rfl) rfl
  next hn => exact .row 10 rfl (rowMatches_opN hop hn rfl) rfl
  next hn => exact .row 11 rfl (rowMatches_opN hop hn rfl) rfl
  next hn => exact .row 12 rfl (rowMatches_opN hop hn rfl) rfl
  next hn => exact .row 13 rfl (rowMatches_opN hop hn rfl) rfl
  next hn => exact .row 14 rfl (rowMatches_opN hop hn rfl) rfl
  next hn => exact .row 15 rfl (rowMatches_opN hop hn rfl) rfl
  next hn => exact .row 16 rfl (rowMatches_opN hop hn rfl) rfl
  next hn => exact .row 17 rfl (rowMatches_opN hop hn rfl) rfl
  next =>
    simp only [opField_toNat, nField_toNat, imp_false] at *
    exact .nop (by unfold NopWord; omega)

theorem decodeFamilyE_readsAs {w : Word} (hop : (opField w).toNat = 0xE) : ReadsAs w (decodeFamilyE w) := by
  simp only [decodeFamilyE]
  refine .ite (fun h => .row 23 rfl (rowMatches_opNn hop h rfl) rfl) fun h9E => ?_
  refine .ite (fun h => .row 24 rfl (rowMatches_opNn hop h rfl) rfl) fun hA1 => ?_
  simp only [opField_toNat, nnField_eq_iff, BitVec.reduceToNat] at *
  exact .nop (by simp [NopWord, *])

theorem decodeFamilyF_readsAs {w : Word} (hop : (opField w).toNat = 0xF) : ReadsAs w (decodeFamilyF w) := by
  simp only [decodeFamilyF]
  refine .ite (fun h => .row 25 rfl (rowMatches_opNn hop h rfl) rfl) fun h07 => ?_
  refine .ite (fun h => .row 26 rfl (rowMatches_opNn hop h rfl) rfl) fun h0A => ?_
  refine .ite (fun h => .row 27 rfl (rowMatches_opNn hop h rfl) rfl) fun h15 => ?_
  refine .ite (fun h => .row 28 rfl (rowMatches_opNn hop h rfl) rfl) fun h18 => ?_
  refine .ite (fun h => .row 29 rfl (rowMatches_opNn hop h rfl) rfl) fun h1E => ?_
  refine .ite (fun h => .row 30 rfl (rowMatches_opNn hop h rfl) rfl) fun h29 => ?_
  refine .ite (fun h => .row 31 rfl (rowMatches_opNn hop h rfl) rfl) fun h33 => ?_
  refine .ite (fun h => .row 32 rfl (rowMatches_opNn hop h rfl) rfl) fun h55 => ?_
  refine .ite (fun h => .row 33 rfl (rowMatches_opNn hop h rfl) rfl) fun h65 => ?_
  simp only [opField_toNat, nnField_eq_iff, BitVec.reduceToNat] at *
  exact .nop (by simp [NopWord, *])

/-- The decoder reads every word as the table says (R95, R96). -/
theorem decode_readsAs (w : Word) : ReadsAs w (decode w) := by
  unfold decode
  split
  next h => exact decodeFamily0_readsAs h
  next h => exact .row 2 rfl (rowMatches_op h rfl) rfl
  next h => exact .row 3 rfl (rowMatches_op h rfl) rfl
  next h => exact .row 4 rfl (rowMatches_op h rfl) rfl
  next h => exact .row 5 rfl (rowMatches_op h rfl) rfl
  next h =>
    exact .ite (fun hn => .row 6 rfl (rowMatches_opN h (congrArg BitVec.toNat hn) rfl) rfl)
      fun hn => .nop (nopWord_of_fixedN (.inl h) hn)
  next h => exact .row 7 rfl (rowMatches_op h rfl) rfl
  next h => exact .row 8 rfl (rowMatches_op h rfl) rfl
  next h => exact decodeFamily8_readsAs h
  next h =>
    exact .ite (fun hn => .row 18 rfl (rowMatches_opN h (congrArg BitVec.toNat hn) rfl) rfl)
      fun hn => .nop (nopWord_of_fixedN (.inr h) hn)
  next h => exact .row 19 rfl (rowMatches_op h rfl) rfl
  next h => exact .row 20 rfl (rowMatches_op h rfl) rfl
  next h => exact .row 21 rfl (rowMatches_op h rfl) rfl
  next h => exact .row 22 rfl (rowMatches_op h rfl) rfl
  next h => exact decodeFamilyE_readsAs h
  next h => exact decodeFamilyF_readsAs h
  next =>
    simp only [imp_false] at *
    have := (opField w).isLt
    omega

/-! ## A word reads as one instruction -/

/-- No row of the table matches a word of the Nop space. -/
theorem not_nopWord_of_row {w : Word} : ∀ r ∈ tableRows, rowMatches r w = true → ¬ NopWord w := by
  simp only [tableRows, tableRowsLow, tableRowsHigh, List.forall_mem_append, List.forall_mem_cons, rowMatches_iff,
    maskAll_toNat, maskOp_toNat, maskOpN_toNat, maskOpNn_toNat, BitVec.reduceToNat, List.not_mem_nil, false_imp_iff,
    implies_true, and_true]
  simp only [NopWord, List.mem_cons, List.not_mem_nil, or_false]
  and_intros <;> omega

theorem ReadsAs.unique {w : Word} {i j : Instr} (hi : ReadsAs w i) (hj : ReadsAs w j) : i = j := by
  cases hi with
  | row k hr hm hi =>
    cases hj with
    | row k' hr' hm' hj =>
      obtain rfl := rowIndex_unique hr hr' hm hm'
      obtain rfl := Option.some.inj (hr.symm.trans hr')
      exact hi.symm.trans hj
    | nop h => exact absurd h (not_nopWord_of_row _ (List.mem_of_getElem? hr) hm)
  | nop h =>
    cases hj with
    | row k hr hm => exact absurd h (not_nopWord_of_row _ (List.mem_of_getElem? hr) hm)
    | nop => rfl

/-- A word that no row matches is in the Nop space. -/
theorem nopWord_of_no_row {w : Word} (h : ∀ r ∈ tableRows, ¬ rowMatches r w = true) : NopWord w := by
  have hreads := decode_readsAs w
  generalize decode w = i at hreads
  cases hreads with
  | row k hr hm => exact absurd hm (h _ (List.mem_of_getElem? hr))
  | nop h => exact h

theorem decodeByTable_readsAs (w : Word) : ReadsAs w (decodeByTable w) := by
  unfold decodeByTable
  split
  next r hfind =>
    obtain ⟨k, hk⟩ := List.mem_iff_getElem?.1 (List.mem_of_find?_eq_some hfind)
    exact .row k hk (List.find?_some (p := (rowMatches · w)) hfind) rfl
  next hfind => exact .nop (nopWord_of_no_row (List.find?_eq_none.1 hfind))

/-- Settles O2: keyed decoder and table read every word alike, and two rows differ in a bit both masks keep. -/
theorem decoderAgreesWithTable : Obligations.DecoderAgreesWithTable :=
  ⟨fun w => (decode_readsAs w).unique (decodeByTable_readsAs w), fun _ _ _ _ _ => rowIndex_unique⟩

/-! ## What the rows build -/

theorem build_ne_nop {w : Word} : ∀ r ∈ tableRows, r.build w ≠ .nop := by
  simp [tableRows, tableRowsLow, tableRowsHigh]

theorem build_wellFormed {w : Word} : ∀ r ∈ tableRows, (r.build w).wellFormed = true := by
  have lineCount : (nField w).toNat < 16 := (nField w).isLt
  simp [tableRows, tableRowsLow, tableRowsHigh, Instr.wellFormed, lineCount]

/-- Settles O3: a word reads as `Nop` by the Nop space alone, since no row builds `Nop`. -/
theorem nopSpace : Obligations.NopSpace := by
  intro w
  constructor
  · intro hnop
    have hreads := decode_readsAs w
    rw [hnop] at hreads
    cases hreads with
    | row k hr hm hi => exact absurd hi (build_ne_nop _ (List.mem_of_getElem? hr))
    | nop h => exact h
  · exact fun h => (decode_readsAs w).unique (.nop h)

/-- What encoding leaves of a word: all of it, but for the ignored `y` nibble of `Shr` and `Shl` (R104; log 19). -/
def withoutIgnoredY (w : Word) : Nat :=
  if w.toNat / 4096 = 0x8 ∧ (w.toNat % 16 = 0x6 ∨ w.toNat % 16 = 0xE) then w.toNat / 256 * 256 + w.toNat % 16
  else w.toNat

/-- The bits a row fixes and the fields it reads make up the word, but for the nibble `Shr` and `Shl` leave unread. -/
theorem encode_build {w : Word} :
    ∀ r ∈ tableRows, rowMatches r w = true → (encode (r.build w)).toNat = withoutIgnoredY w := by
  simp only [tableRows, tableRowsLow, tableRowsHigh, List.forall_mem_append, List.forall_mem_cons, rowMatches_iff,
    maskAll_toNat, maskOp_toNat, maskOpN_toNat, maskOpNn_toNat, encode, encodeNnn_toNat, encodeXnn_toNat,
    encodeXyn_toNat, xField_val, yField_val, nField_toNat, nnField_toNat, nnnField_toNat, BitVec.reduceToNat,
    BitVec.toNat_ofNat, Fin.val_zero, Nat.reduceMul, List.not_mem_nil, false_imp_iff, implies_true, and_true,
    withoutIgnoredY]
  and_intros <;> intro hm <;> split <;> omega

theorem ReadsAs.wellFormed {w : Word} {i : Instr} (h : ReadsAs w i) : i.wellFormed = true := by
  cases h with
  | row k hr hm hi => exact hi ▸ build_wellFormed _ (List.mem_of_getElem? hr)
  | nop => rfl

theorem ReadsAs.encode_toNat {w : Word} {i : Instr} (h : ReadsAs w i) (hlegal : i ≠ .nop) :
    (encode i).toNat = withoutIgnoredY w := by
  cases h with
  | row k hr hm hi => exact hi ▸ encode_build _ (List.mem_of_getElem? hr) hm
  | nop => exact absurd rfl hlegal

/-- Settles O4: both clauses hold of every instruction that a word reads as. -/
theorem encodeOfDecode : Obligations.EncodeOfDecode :=
  ⟨fun w => (decode_readsAs w).wellFormed, fun w => (decode_readsAs w).encode_toNat⟩

end Sys2Proof
end

section
/-! PROOFS. The cycle of a ready engine from its fetch to its end (R120 to R123, R246 to R258), when no cycle runs (R42,
R126, R286), and `Nop` (R124, R125). -/

namespace Sys2Proof.Machine

/-! ## The end of the cycle (R123, R246 to R249, R256) -/

theorem finishCycle_cycleCount_toNat (s : State) :
    (finishCycle s).cycleCount.toNat = (s.cycleCount.toNat + 1) % 2 ^ 64 := by
  rw [finishCycle_cycleCount, BitVec.toNat_add]
  rfl

/-- Both timers count down in a cycle whose number `TARGET_HZ div 60` divides (R246, R247). -/
theorem finishCycle_timers_of_tick {s : State}
    (h : (finishCycle s).cycleCount.toNat % (s.cfg.targetHz / 60) = 0) :
    (finishCycle s).DT.toNat = s.DT.toNat - 1 ∧ (finishCycle s).ST.toNat = s.ST.toNat - 1 := by
  have htick : (s.cycleCount + 1).toNat % tickDiv s.cfg = 0 := finishCycle_cycleCount s ▸ h
  rw [finishCycle_DT, finishCycle_ST, if_pos htick, if_pos htick]
  exact ⟨countDown_toNat s.DT, countDown_toNat s.ST⟩

/-- In every other cycle they stand still (R246). -/
theorem finishCycle_timers_of_no_tick {s : State}
    (h : (finishCycle s).cycleCount.toNat % (s.cfg.targetHz / 60) ≠ 0) :
    (finishCycle s).DT = s.DT ∧ (finishCycle s).ST = s.ST := by
  have htick : (s.cycleCount + 1).toNat % tickDiv s.cfg ≠ 0 := finishCycle_cycleCount s ▸ h
  rw [finishCycle_DT, finishCycle_ST, if_neg htick, if_neg htick]
  exact ⟨rfl, rfl⟩

theorem finishCycle_tone_iff (s : State) : (finishCycle s).tone = true ↔ 0 < (finishCycle s).ST.toNat := by
  rw [finishCycle_tone, decide_eq_true_iff]

/-- The timer update writes the release event, the count, the timers and the tone alone (R123, R246 to R249). -/
theorem timerUpdate_frame (s : State) : timerUpdate s = { s with
    keyReleased := none, cycleCount := s.cycleCount + 1
    DT := (timerUpdate s).DT, ST := (timerUpdate s).ST, tone := (timerUpdate s).tone } := rfl

/-- The throttle writes its own state alone (R256). -/
theorem throttle_frame (s : State) : throttle s = { s with
    debt := (throttle s).debt, wtimer := (throttle s).wtimer
    sleeping := false, clockReads := s.clockReads + 1 } := rfl

/-- The frame of the cycle's end: the fields that neither the timer update nor the throttle writes stay (R120). -/
theorem finishCycle_frame (s : State) : finishCycle s = { s with
    keyReleased := (finishCycle s).keyReleased, cycleCount := (finishCycle s).cycleCount
    DT := (finishCycle s).DT, ST := (finishCycle s).ST, tone := (finishCycle s).tone
    debt := (finishCycle s).debt, wtimer := (finishCycle s).wtimer
    sleeping := (finishCycle s).sleeping, clockReads := (finishCycle s).clockReads } := by
  rw [finishCycle, throttle_frame, timerUpdate_frame]

/-- Settles O12: each update by its lemma, the throttle's by `finishCycle_throttle`. -/
theorem cycleEndUpdates : Obligations.CycleEndUpdates := by
  rintro u t rfl
  obtain ⟨hlo, hhi⟩ := clockNow_bounds u
  exact ⟨finishCycle_keyReleased u, finishCycle_cycleCount_toNat u, finishCycle_timers_of_tick,
    finishCycle_timers_of_no_tick, finishCycle_tone_iff u, finishCycle_sleeping u,
    ⟨hlo, hhi, finishCycle_clockReads u, finishCycle_throttle u⟩, finishCycle_frame u⟩

/-! ## A cycle that runs -/

/-- A ready engine's step that leaves no fault record has run an instruction without a fault, and then the cycle's
end (R120, R232). -/
theorem step_completed {s t : State} (hready : s.enterGap.ready = true) (h : step s = .next t) (hf : t.fault = none) :
    ∃ u : State, exec (fetchInstr (startCycle s.enterGap)) (advancePc (startCycle s.enterGap)) = .next u ∧
      u.fault = none ∧ t = finishCycle u := by
  obtain ⟨-, -, -, hawake⟩ := (State.ready_iff _).mp hready
  rw [enterGap_sleeping] at hawake
  obtain ⟨-, -, -, ⟨hasleep, -⟩ | ⟨-, -, rfl⟩ | ⟨-, -, u, hu, ⟨hfault, rfl⟩ | ⟨hnone, rfl⟩⟩⟩ := step_next_cases h
  · exact absurd (hawake.symm.trans hasleep) Bool.false_ne_true
  · cases hf
  · exact absurd hf hfault
  · exact ⟨u, hu, hnone, rfl⟩

/-- Settles O22: such a step has been through the cycle's end, which clears the event. -/
theorem releaseEventCleared : Obligations.ReleaseEventCleared := by
  intro s t hready h hf
  obtain ⟨u, -, -, rfl⟩ := step_completed hready h hf
  exact finishCycle_keyReleased u

/-- A ready engine whose fetch lies within memory runs an instruction (R120, R121). -/
theorem step_of_fetch {s : State} (hready : s.enterGap.ready = true) (hpc : s.pc.toNat ≤ 0x0FFE) :
    step s = completeCycle (exec (fetchInstr (startCycle s.enterGap)) (advancePc (startCycle s.enterGap))) := by
  rw [step_of_ready hready, if_neg]
  rw [fetchFaults_iff, startCycle, enterGap_pc]
  omega

/-- What is fetched after the gap lies at `pc` before it: the gap writes neither memory nor `pc` (R40, R61). -/
theorem fetchInstr_startCycle_enterGap (s : State) : fetchInstr (startCycle s.enterGap) =
    decode (wordOfBytes (s.readByte s.pc.toNat) (s.readByte (s.pc.toNat + 1))) := by
  simp only [fetchInstr_eq, startCycle, State.readByte, enterGap_mem, enterGap_pc]

theorem advancePc_startCycle_enterGap (s : State) :
    advancePc (startCycle s.enterGap) = { s.enterGap with present := false, pc := s.pc + 2 } := by
  rw [← enterGap_pc s]
  rfl

theorem completeCycle_of_no_fault {u : State} (h : u.fault = none) :
    completeCycle (.next u) = .next (finishCycle u) := by
  rw [completeCycle_next, h]
  rfl

theorem completeCycle_of_fault {u : State} (h : u.fault ≠ none) : completeCycle (.next u) = .next u := by
  rw [completeCycle_next, if_pos (Option.isSome_iff_ne_none.mpr h)]

/-- Settles O11: what the gap leaves of `pc` and memory, then one lemma for each way the execute phase can end. -/
theorem stepRunsDecodedInstruction : Obligations.StepRunsDecodedInstruction := by
  refine ⟨fun s hready hpc => ?_, fun _ => completeCycle_of_no_fault, fun _ => completeCycle_of_fault,
    fun _ => rfl, fun _ => rfl⟩
  rw [step_of_fetch hready hpc, fetchInstr_startCycle_enterGap, advancePc_startCycle_enterGap]

/-! ## No cycle (R42, R126, R286) -/

theorem step_of_halted {s : State} (h : s.fault ≠ none) : step s = .fault .halted :=
  if_pos (Option.isSome_iff_ne_none.mpr h)

/-- Without a fault record the step answers what keeps the cycle from running, where something does. -/
theorem step_of_cannotRun {s : State} {o : Host.Outcome State Fault Refusal} (hf : s.fault = none)
    (h : cannotRun s.enterGap = some o) : step s = o := by
  rw [step, if_neg (by simp [hf]), h]

theorem cannotRun_of_run_low {s : State} (h : s.run = false) : cannotRun s = some (.fault .stopped) := if_pos h

theorem rateValid_iff (c : EngineConfig) : rateValid c = true ↔ 0 < c.targetHz ∧ c.targetHz % 60 = 0 := by
  rw [rateValid, Bool.and_eq_true, decide_eq_true_iff, decide_eq_true_iff]

theorem cannotRun_of_rate_refused {s : State} (hrun : s.run = true)
    (h : ¬(0 < s.cfg.targetHz ∧ s.cfg.targetHz % 60 = 0)) : cannotRun s = some (.refused .rateRefused) := by
  rw [← rateValid_iff, Bool.not_eq_true] at h
  rw [cannotRun, if_neg (by simp [hrun]), if_pos h]

/-- Settles O14: the halt comes before the gap, the two other stops are those of `cannotRun` after it. -/
theorem noCycleWhenStopped : Obligations.NoCycleWhenStopped := by
  intro s
  refine ⟨step_of_halted, fun hf hrun => ?_, fun hf hrun hrate => ?_⟩
  · exact step_of_cannotRun hf (cannotRun_of_run_low hrun)
  · rw [← enterGap_cfg s] at hrate
    exact step_of_cannotRun hf (cannotRun_of_rate_refused hrun hrate)

/-! ## Nop (R124, R125) -/

/-- Settles O32, by the value of the policy bit. -/
theorem nopByPolicy : Obligations.NopByPolicy := by
  refine ⟨by decide, fun s => ⟨fun h => ?_, fun h => ?_⟩⟩
  · rw [exec, execNop, h]
    rfl
  · rw [exec, execNop, if_pos h, raiseFault_eq]

end Sys2Proof.Machine
end

section
/-! PROOFS. The control-flow instructions (R140 to R149): jumps, the stack's two, the skips. That an instruction's word
decodes to it is the round trip `decodeOfEncode`. -/

namespace Sys2Proof.Machine

theorem onlyPc_setPc (s : State) (w : Word) : OnlyPc s (s.setPc w) := ⟨rfl, fun _ => rfl⟩

/-! ## The stack (R142, R143) -/

/-- With `k < 16` entries `Call` pushes the post-fetch `pc` as entry `k` and goes to its target (R142). -/
theorem exec_call_of_depth (nnn : BitVec 12) {s : State} {k : Fin 16} (hk : s.SP.toNat = k.val) :
    exec (.call nnn) s = .next ((s.push k s.pc).setPc (zextAddr nnn)) := by
  obtain ⟨k, hlt⟩ := k
  subst hk
  rw [exec, execCall, dif_pos hlt]

/-- With 16 entries `Call` overflows (R142). -/
theorem exec_call_of_full (nnn : BitVec 12) {s : State} (h : 16 ≤ s.SP.toNat) :
    exec (.call nnn) s = .next (FaultedFrom s .stackOverflow none) := by
  rw [exec, execCall, dif_neg (Nat.not_lt.mpr h), raiseFault_eq]

/-- With `k + 1` entries `Return` pops entry `k` (R143). -/
theorem exec_ret_of_depth {s : State} {k : Fin 16} (hk : s.SP.toNat = k.val + 1) :
    exec .ret s = .next (s.popTo (s.stackEntry k)) := by
  have hlt : s.SP.toNat - 1 < 16 := by omega
  have hidx : (⟨s.SP.toNat - 1, hlt⟩ : Fin 16) = k := Fin.ext (by simp [hk])
  rw [exec, execRet, if_neg (by omega), dif_pos hlt, hidx]

/-- With an empty stack `Return` underflows (R143). -/
theorem exec_ret_of_empty {s : State} (h : s.SP.toNat = 0) :
    exec .ret s = .next (FaultedFrom s .stackUnderflow none) := by
  rw [exec, execRet, if_pos h, raiseFault_eq]

/-- Below 16 entries the depth counter does not wrap (R24). -/
theorem SP_add_one_toNat {s : State} {k : Fin 16} (hk : s.SP.toNat = k.val) : (s.SP + 1).toNat = k.val + 1 := by
  have := k.isLt
  bv_omega

/-- Settles O35: below 16 entries `Call` is a push and a jump, with 16 a fault. -/
theorem callPushesOrOverflows : Obligations.CallPushesOrOverflows := by
  intro nnn
  refine ⟨decodeOfEncode (.call nnn) rfl, fun s => ⟨fun h => ?_, exec_call_of_full nnn⟩⟩
  have hdepth : s.SP.toNat = (⟨s.SP.toNat, h⟩ : Fin 16).val := rfl
  refine ⟨_, exec_call_of_depth nnn hdepth, ?_, SP_add_one_toNat hdepth, zextAddr_toNat nnn, fun k hk => ?_, rfl,
    fun _ => rfl⟩
  · rw [State.stackEntry_setPc, State.stackEntry_push, if_pos rfl]
  · rw [State.stackEntry_setPc, State.stackEntry_push, if_neg fun hc => hk (congrArg Fin.val hc)]

/-- Settles O36: with an entry `Return` is a pop, which leaves the array alone; with none it is a fault. -/
theorem returnPopsOrUnderflows : Obligations.ReturnPopsOrUnderflows := by
  refine ⟨decodeOfEncode .ret rfl, fun s => ⟨fun h hpos => ?_, exec_ret_of_empty⟩⟩
  have hdepth : s.SP.toNat = s.SP.toNat - 1 + 1 := (Nat.sub_add_cancel hpos).symm
  refine ⟨_, exec_ret_of_depth (k := ⟨s.SP.toNat - 1, h⟩) hdepth, rfl, ?_, rfl, fun _ => rfl⟩
  rw [State.popTo_SP]
  bv_omega

/-- Settles O37: the `Return` pops the entry that the `Call` pushed, and the two changes of `SP` cancel. -/
theorem callThenReturnComesBack : Obligations.CallThenReturnComesBack := by
  intro nnn s u h hu
  obtain ⟨k, hk⟩ : ∃ k : Fin 16, s.SP.toNat = k.val := ⟨⟨s.SP.toNat, h⟩, rfl⟩
  rw [exec_call_of_depth nnn hk] at hu
  injection hu with hu
  subst hu
  have hdepth : ((s.push k s.pc).setPc (zextAddr nnn)).SP.toNat = k.val + 1 := SP_add_one_toNat hk
  have hpc : ((s.push k s.pc).setPc (zextAddr nnn)).stackEntry k = s.pc := by
    rw [State.stackEntry_setPc, State.stackEntry_push, if_pos rfl]
  have hSP : s.SP + 1 - 1 = s.SP := BitVec.add_sub_cancel s.SP 1
  refine ⟨_, exec_ret_of_depth hdepth, hpc, hSP, fun j hne => ?_, ?_, fun _ => rfl⟩
  · rw [State.stackEntry_popTo, State.stackEntry_setPc, State.stackEntry_push, if_neg fun hc => hne (by rw [hc, hk])]
  · rw [hpc, State.popTo]
    simp only [State.setPc_SP, State.push_SP, hSP]
    rfl

/-! ## The jumps (R141, R144) -/

/-- Settles O33: `exec` writes `pc` alone, and zero-extension keeps the address. -/
theorem jumpSetsPc : Obligations.JumpSetsPc := by
  intro nnn
  exact ⟨decodeOfEncode (.jump nnn) rfl, fun s => ⟨_, rfl, zextAddr_toNat nnn, onlyPc_setPc s _⟩⟩

/-- A 12-bit address and a byte add up without a carry out of 16 bits (R144). -/
theorem zextAddr_add_zextByte_toNat (nnn : BitVec 12) (b : Byte) :
    (zextAddr nnn + zextByte b).toNat = nnn.toNat + b.toNat := by
  have := nnn.isLt
  have := b.isLt
  rw [BitVec.toNat_add, zextAddr_toNat, zextByte_toNat, Nat.mod_eq_of_lt (by omega)]

/-- Settles O34: the sum is below 2^16, so nothing is lost. -/
theorem jumpOffAddsV0 : Obligations.JumpOffAddsV0 := by
  intro nnn
  exact ⟨decodeOfEncode (.jumpOff nnn) rfl,
    fun s => ⟨_, rfl, zextAddr_add_zextByte_toNat nnn (s.getV 0), onlyPc_setPc s _⟩⟩

/-! ## The skips (R145 to R149) -/

theorem onlyPc_skipIf (s : State) (p : Bool) : OnlyPc s (s.skipIf p) := by
  cases p
  · exact ⟨rfl, fun _ => rfl⟩
  · exact onlyPc_setPc s _

/-- The two skips on a comparison differ from the state before in `pc` alone; the one skips when the values are equal,
the other when they are not (R145). -/
theorem skipIf_compared (s : State) (a b : Byte) :
    (OnlyPc s (s.skipIf (a == b)) ∧ (s.skipIf (a == b)).pc = if a = b then s.pc + 2 else s.pc) ∧
      (OnlyPc s (s.skipIf (a != b)) ∧ (s.skipIf (a != b)).pc = if a = b then s.pc else s.pc + 2) := by
  refine ⟨⟨onlyPc_skipIf s _, ?_⟩, onlyPc_skipIf s _, ?_⟩
  · simp only [State.skipIf_pc, beq_iff_eq]
  · simp only [State.skipIf_pc, bne_iff_ne, ite_not]

/-- Settles O38: both skips compare `V[x]` with the immediate. -/
theorem skipsOnImmediate : Obligations.SkipsOnImmediate := by
  intro x nn
  refine ⟨decodeOfEncode (.skipEqIm x nn) rfl, decodeOfEncode (.skipNeIm x nn) rfl, fun s => ?_⟩
  obtain ⟨heq, hne⟩ := skipIf_compared s (s.getV x) nn
  exact ⟨⟨_, rfl, heq⟩, ⟨_, rfl, hne⟩⟩

/-- Families 5 and 9 have a fixed `n = 0`: another low nibble is `Nop` (R100). -/
theorem decode_encodeXyn_of_n_ne_zero {op : BitVec 4} (hop : op = 0x5 ∨ op = 0x9) (x y : Reg) {n : BitVec 4}
    (hn : n ≠ 0) : decode (encodeXyn op x y n) = .nop := by
  rcases hop with rfl | rfl
  · simpa [decode] using hn
  · simpa [decode] using hn

/-- Settles O39: both skips compare `V[x]` with `V[y]`. -/
theorem skipsOnRegisters : Obligations.SkipsOnRegisters := by
  intro x y
  refine ⟨decodeOfEncode (.skipEq x y) rfl, decodeOfEncode (.skipNe x y) rfl, fun n hn => ⟨?_, ?_⟩, fun s => ?_⟩
  · exact decode_encodeXyn_of_n_ne_zero (.inl rfl) x y hn
  · exact decode_encodeXyn_of_n_ne_zero (.inr rfl) x y hn
  · obtain ⟨heq, hne⟩ := skipIf_compared s (s.getV x) (s.getV y)
    exact ⟨⟨_, rfl, heq⟩, ⟨_, rfl, hne⟩⟩

end Sys2Proof.Machine
end

section
/-! PROOFS. Arithmetic on registers (R160 to R176): the moves and the logic, which write `V[x]` alone, and the sums,
differences and shifts, which write their result to `V[x]` and then their flag to VF (R172). -/

namespace Sys2Proof.Machine

/-! ## What the ALU answers, as numbers (R160) -/

@[simp] theorem aluAdd_toNat (a b : Byte) : (aluAdd a b).toNat = (a.toNat + b.toNat) % 256 := BitVec.toNat_ofNat _ 8

/-- A difference that would be negative comes out 256 higher (R160). -/
theorem aluSub_toNat (a b : Byte) :
    (aluSub a b).toNat = if b.toNat ≤ a.toNat then a.toNat - b.toNat else a.toNat + 256 - b.toNat := by
  unfold aluSub
  split
  · next h => exact BitVec.toNat_sub_of_le h
  · next h => rw [BitVec.toNat_sub_of_lt (Nat.not_le.mp h)]; omega

@[simp] theorem aluShr_toNat (a : Byte) : (aluShr a).toNat = a.toNat / 2 := by
  have := a.isLt
  rw [aluShr, BitVec.toNat_ofNat, Nat.mod_eq_of_lt (by omega)]

@[simp] theorem aluShl_toNat (a : Byte) : (aluShl a).toNat = 2 * a.toNat % 256 := BitVec.toNat_ofNat _ 8

/-! ## The flags (R21, R160) -/

/-- The flag of a condition is the number 1 or 0 (R21). -/
theorem flagByte_decide_toNat (p : Prop) [Decidable p] : (flagByte (decide p)).toNat = if p then 1 else 0 := by
  by_cases h : p <;> simp [flagByte, h]

/-- The flag of a bit is the bit as a number (R21). -/
theorem flagByte_toNat (p : Bool) : (flagByte p).toNat = p.toNat := by
  cases p <;> rfl

/-- The bit shifted out to the right is the parity (R160). -/
theorem flagByte_shrOut_toNat (a : Byte) : (flagByte (shrOut a)).toNat = a.toNat % 2 := by
  rw [flagByte_toNat, shrOut, BitVec.getLsbD, Nat.toNat_testBit, Nat.pow_zero, Nat.div_one]

/-- The bit shifted out to the left says whether the byte is at least 128 (R160). -/
theorem flagByte_shlOut_toNat (a : Byte) : (flagByte (shlOut a)).toNat = a.toNat / 128 := by
  have := a.isLt
  rw [flagByte_toNat, shlOut, BitVec.getLsbD, Nat.toNat_testBit]
  omega

/-! ## What a write of registers leaves (R20, R172) -/

/-- A write of `V[x]` leaves everything else. -/
theorem onlyRegs_setV (s : State) (x : Reg) (b : Byte) : OnlyRegs [x] s (s.setV x b) :=
  ⟨rfl, fun _ hr => State.getV_setV_of_ne s b (List.ne_of_not_mem_cons hr), fun _ => rfl⟩

/-- A result and a flag leave every other register and everything else (R172). -/
theorem onlyRegs_setResultFlag (s : State) (x : Reg) (b : Byte) (p : Bool) :
    OnlyRegs [x, 15] s (s.setResultFlag x b p) := by
  refine ⟨rfl, fun r hr => ?_, fun _ => rfl⟩
  simp only [List.mem_cons, List.not_mem_nil, or_false, not_or] at hr
  obtain ⟨hx, hvf⟩ := hr
  rw [State.getV_setResultFlag, if_neg hvf, if_neg hx]

/-- A result `m` and a flag `f` written, as numbers: the result stands unless its register is VF, where the flag wins
(R172). -/
theorem setResultFlag_toNat (s : State) (x : Reg) {b : Byte} {p : Bool} {m f : Nat} (hb : b.toNat = m)
    (hp : (flagByte p).toNat = f) :
    (x ≠ 15 → ((s.setResultFlag x b p).getV x).toNat = m) ∧ ((s.setResultFlag x b p).getV 15).toNat = f ∧
      OnlyRegs [x, 15] s (s.setResultFlag x b p) := by
  refine ⟨fun hx => ?_, ?_, onlyRegs_setResultFlag s x b p⟩
  · rw [State.getV_setResultFlag, if_neg hx, if_pos rfl, hb]
  · rw [State.getV_setResultFlag, if_pos rfl, hp]

/-! ## Result and flag -/

/-- Settles O44: the result is the sum modulo 256, the flag its carry. -/
theorem addSumAndCarry : Obligations.AddSumAndCarry := by
  intro x y
  exact ⟨decodeOfEncode (.add x y) rfl,
    fun s => ⟨_, rfl, setResultFlag_toNat s x (aluAdd_toNat _ _) (flagByte_decide_toNat _)⟩⟩

/-- Settles O45: one subtraction with its two operands in either order. -/
theorem subDifferenceAndNotBorrow : Obligations.SubDifferenceAndNotBorrow := by
  intro x y
  refine ⟨decodeOfEncode (.sub x y) rfl, decodeOfEncode (.subN x y) rfl, fun s => ⟨?sub, ?subN⟩⟩
  case sub => exact ⟨_, rfl, setResultFlag_toNat s x (aluSub_toNat _ _) (flagByte_decide_toNat _)⟩
  case subN => exact ⟨_, rfl, setResultFlag_toNat s x (aluSub_toNat _ _) (flagByte_decide_toNat _)⟩

/-- Settles O46: halving puts the parity out, doubling the top bit. -/
theorem shiftsAndBitOut : Obligations.ShiftsAndBitOut := by
  intro x y
  obtain ⟨hwords, -, -⟩ := shiftWordsIgnoreY
  obtain ⟨hshr, hshl⟩ := hwords x y
  refine ⟨hshr, hshl, fun s => ⟨?shr, ?shl⟩⟩
  case shr => exact ⟨_, rfl, setResultFlag_toNat s x (aluShr_toNat _) (flagByte_shrOut_toNat _)⟩
  case shl => exact ⟨_, rfl, setResultFlag_toNat s x (aluShl_toNat _) (flagByte_shlOut_toNat _)⟩

/-! ## One register written -/

/-- Settles O40: `exec` is the one write. -/
theorem loadImWrites : Obligations.LoadImWrites := by
  intro x nn
  exact ⟨decodeOfEncode (.loadIm x nn) rfl, fun s => ⟨_, rfl, s.getV_setV_self x nn, onlyRegs_setV s x nn⟩⟩

/-- Settles O41: the value written is the sum modulo 256, and there is no second write. -/
theorem addImWraps : Obligations.AddImWraps := by
  intro x nn
  refine ⟨decodeOfEncode (.addIm x nn) rfl, fun s => ⟨_, rfl, ?_, onlyRegs_setV s x _⟩⟩
  rw [State.getV_setV_self, aluAdd_toNat]

/-- Settles O42: `exec` is the one write. -/
theorem moveCopies : Obligations.MoveCopies := by
  intro x y
  exact ⟨decodeOfEncode (.move x y) rfl, fun s => ⟨_, rfl, s.getV_setV_self x _, onlyRegs_setV s x _⟩⟩

/-- Settles O43: the word operations are the bits' own. -/
theorem logicBitwise : Obligations.LogicBitwise := by
  intro x y s
  refine ⟨⟨_, rfl, onlyRegs_setV s x _, fun k _ => ?or⟩, ⟨_, rfl, onlyRegs_setV s x _, fun k _ => ?and⟩,
    ⟨_, rfl, onlyRegs_setV s x _, fun k _ => ?xor⟩⟩
  case or => rw [State.getV_setV_self, BitVec.getLsbD_or]
  case and => rw [State.getV_setV_self, BitVec.getLsbD_and]
  case xor => rw [State.getV_setV_self, BitVec.getLsbD_xor]

/-- A mask leaves no bit outside it. -/
theorem and_mask_and_not_mask (r nn : Byte) : r &&& nn &&& ~~~nn = 0 := by
  rw [BitVec.and_assoc, BitVec.and_not_self]
  exact BitVec.and_zero

/-- Settles O47: `exec` is the write of the masked byte, and one more draw counted. -/
theorem randMasksFreeByte : Obligations.RandMasksFreeByte := by
  intro x nn s
  have hx : (randWith (Config.randByte s.draws) x nn s).getV x = Config.randByte s.draws &&& nn :=
    s.getV_setV_self x _
  refine ⟨_, rfl, hx, ?_, fun r hr => State.getV_setV_of_ne s _ hr, rfl, fun _ => rfl⟩
  exact (congrArg (· &&& ~~~nn) hx).trans (and_mask_and_not_mask _ nn)

end Sys2Proof.Machine
end

section
/-! PROOFS. Memory and index-register instructions (R180 to R187): the writes of `I`, and the block moves, each behind
its bounds check (R63). -/

namespace Sys2Proof.Machine

/-! ## The index register (R181 to R183) -/

theorem onlyI_setI (s : State) (w : Word) : OnlyI s (s.setI w) := ⟨rfl, fun _ => rfl⟩

/-- Settles O48: both write `I` alone, one the zero-extended address, the other the glyph's. -/
theorem indexLoads : Obligations.IndexLoads := by
  refine ⟨fun nnn => ⟨decodeOfEncode (.loadI nnn) rfl, fun s => ?loadI⟩,
    fun x => ⟨decodeOfEncode (.setSpriteAddr x) rfl, fun s => ?setSpriteAddr⟩⟩
  case loadI => exact ⟨_, rfl, zextAddr_toNat nnn, onlyI_setI s _⟩
  case setSpriteAddr => exact ⟨_, rfl, glyphAddr_toNat (s.getV x), onlyI_setI s _⟩

/-- Settles O49: `exec` writes `I` alone, and the 16-bit sum drops its carry. -/
theorem addIWraps : Obligations.AddIWraps := by
  intro x s
  refine ⟨_, rfl, ?_, onlyI_setI s _⟩
  rw [State.setI_I, BitVec.toNat_add, zextByte_toNat]

/-! ## The bounds check before a block move (R63) -/

/-- A block whose last byte is in memory is moved. -/
theorem checkedMove_of_fits {s : State} {n : Nat} (h : s.I.toNat + n ≤ 0xFFF) (t : State) :
    (if s.blockInRange (n + 1) then t else raiseDataFault s) = t :=
  if_pos ((s.blockInRange_iff _).mpr (.inr (Nat.lt_succ_of_le h)))

/-- A block whose last byte is outside memory is the data fault, whatever the move would have done. -/
theorem checkedMove_of_exceeds {s : State} {n : Nat} (h : 0xFFF < s.I.toNat + n) (t : State) :
    (if s.blockInRange (n + 1) then t else raiseDataFault s) = FaultedFrom s .data (some (max s.I.toNat 0x1000)) := by
  have hout : s.blockInRange (n + 1) = false := (s.blockInRange_eq_false_iff _).mpr ⟨Nat.succ_ne_zero n, h⟩
  rw [hout, if_neg Bool.false_ne_true, raiseDataFault_eq]

theorem exec_storeRegs_of_fits {x : Reg} {s : State} (h : s.I.toNat + x.val ≤ 0xFFF) :
    exec (.storeRegs x) s = .next (storeBlock (regsUpTo x) s) :=
  congrArg _ (checkedMove_of_fits h _)

theorem exec_loadRegs_of_fits {x : Reg} {s : State} (h : s.I.toNat + x.val ≤ 0xFFF) :
    exec (.loadRegs x) s = .next (loadBlock (regsUpTo x) s) :=
  congrArg _ (checkedMove_of_fits h _)

/-! ## The digits (R184) -/

/-- Settles O50: the three digits are stored when the last of them fits. -/
theorem storeBcdDigits : Obligations.StoreBcdDigits := by
  intro x
  refine ⟨decodeOfEncode (.storeBcd x) rfl, fun s => ⟨fun h hwf => ?fits, fun h => ?exceeds⟩⟩
  case fits =>
    obtain ⟨hhundreds, htens, hunits⟩ := storeDigits_readByte s (s.getV x) hwf (Nat.lt_succ_of_le h)
    refine ⟨storeDigits s (s.getV x), congrArg _ (checkedMove_of_fits h _), ?_, ?_, ?_, storeDigits_eq s _,
      fun a ha => storeDigits_readByte_of_ne s _ ha⟩
    · rw [hhundreds, bcdHundreds_toNat]
    · rw [htens, bcdTens_toNat]
    · rw [hunits, bcdUnits_toNat]
  case exceeds => exact congrArg _ (checkedMove_of_exceeds h _)

/-! ## The block moves (R185, R186) -/

/-- The stored block is `V[0]`..`V[x]` (R185). -/
theorem storeBlock_regsUpTo_readByte {x : Reg} {s : State} (hwf : MemoryCanonical s) (h : s.I.toNat + x.val ≤ 0xFFF)
    {k : Reg} (hk : k ≤ x) : (storeBlock (regsUpTo x) s).readByte (s.I.toNat + k.val) = s.getV k := by
  have hin : ∀ j ∈ regsUpTo x, s.I.toNat + j < 4096 := fun j hj => by
    have hjx : j ≤ x.val := mem_regsUpTo.mp hj
    omega
  rw [storeBlock_readByte _ s hwf hin (mem_regsUpTo.mpr hk), regAt_eq]

/-- Storing `V[0]`..`V[x]` leaves everything but the `x + 1` bytes from `I` (R185, R187). -/
theorem onlyBytes_storeBlock_regsUpTo (x : Reg) (s : State) :
    OnlyBytes s.I.toNat (x.val + 1) s (storeBlock (regsUpTo x) s) := by
  refine ⟨storeBlock_eq _ s, fun a ha => storeBlock_readByte_of_ne _ s fun k hk => ?_⟩
  have hkx : k ≤ x.val := mem_regsUpTo.mp hk
  omega

/-- Settles O51: the block is stored when its last byte fits. -/
theorem storeRegsBlock : Obligations.StoreRegsBlock := by
  intro x
  refine ⟨decodeOfEncode (.storeRegs x) rfl, fun s => ⟨fun h hwf => ?fits, fun h => ?exceeds⟩⟩
  case fits =>
    exact ⟨_, exec_storeRegs_of_fits h, fun k hk => storeBlock_regsUpTo_readByte hwf h hk,
      onlyBytes_storeBlock_regsUpTo x s⟩
  case exceeds => exact congrArg _ (checkedMove_of_exceeds h _)

/-- The registers after a load of `V[0]`..`V[x]` (R186). -/
theorem loadBlock_regsUpTo_getV (x : Reg) (s : State) (k : Reg) :
    (loadBlock (regsUpTo x) s).getV k = if k ≤ x then s.readByte (s.I.toNat + k.val) else s.getV k := by
  have hlt : ∀ j ∈ regsUpTo x, j < 16 := fun j hj => Nat.lt_of_le_of_lt (mem_regsUpTo.mp hj) x.isLt
  simp only [loadBlock_getV _ s hlt, mem_regsUpTo, Fin.le_def]

theorem sameMemory_loadBlock (offsets : List Nat) (s : State) : SameMemory s (loadBlock offsets s) := by
  intro a
  rw [loadBlock_eq]
  rfl

/-- Settles O52: the block is loaded when its last byte fits. -/
theorem loadRegsBlock : Obligations.LoadRegsBlock := by
  intro x
  refine ⟨decodeOfEncode (.loadRegs x) rfl, fun s => ⟨fun h => ?fits, fun h => ?exceeds⟩⟩
  case fits =>
    refine ⟨_, exec_loadRegs_of_fits h, fun k hk => ?_, fun k hk => ?_, loadBlock_eq _ s, sameMemory_loadBlock _ s⟩
    · rw [loadBlock_regsUpTo_getV, if_pos hk]
    · rw [loadBlock_regsUpTo_getV, if_neg (Fin.not_le.mpr hk)]
  case exceeds => exact congrArg _ (checkedMove_of_exceeds h _)

/-- Settles O53: the store leaves `I`, so the load reads the very bytes that were stored. -/
theorem storeThenLoadRegs : Obligations.StoreThenLoadRegs := by
  intro x s u V hwf h hu
  rw [exec_storeRegs_of_fits h] at hu
  injection hu with hu
  subst hu
  have hI : (storeBlock (regsUpTo x) s).I = s.I := by rw [storeBlock_eq]
  refine ⟨_, exec_loadRegs_of_fits (s := { storeBlock (regsUpTo x) s with V := V }) (by rw [hI]; exact h),
    fun k hk => ?_⟩
  calc (loadBlock (regsUpTo x) { storeBlock (regsUpTo x) s with V := V }).getV k
      = (storeBlock (regsUpTo x) s).readByte ((storeBlock (regsUpTo x) s).I.toNat + k.val) := by
        rw [loadBlock_regsUpTo_getV, if_pos hk]; rfl
    _ = s.getV k := by rw [hI, storeBlock_regsUpTo_readByte hwf h hk]

end Sys2Proof.Machine
end

section
/-! PROOFS. The timer instructions (R200 to R203): each moves one byte; the tick is the cycle's end. -/

namespace Sys2Proof.Machine

/-- Settles O54: the register's write keeps the frame of `OnlyRegs`, a timer's write touches neither memory nor any other
field. -/
theorem timerMoves : Obligations.TimerMoves := by
  intro x s
  refine ⟨?fromDelay, ?toDelay, ?toSound⟩
  case fromDelay => exact ⟨_, rfl, s.getV_setV_self x s.DT, onlyRegs_setV s x s.DT⟩
  case toDelay => exact ⟨_, rfl, s.setDT_DT (s.getV x), rfl, s.readByte_setDT (s.getV x)⟩
  case toSound => exact ⟨_, rfl, s.setST_ST (s.getV x), rfl, s.readByte_setST (s.getV x)⟩

end Sys2Proof.Machine
end

section
/-! PROOFS. The input instructions (R210 to R214): the skips on a key's flag, and the wait for a release. -/

namespace Sys2Proof.Machine

/-! ## The skip on a key (R210, R211, R213) -/

/-- With a byte that names a key, the skip changes `pc` alone, by that key's flag (R210, R211). -/
theorem skipOnKey_of_lt (s : State) {b : Byte} (h : b.toNat < 16) (wanted : Bool) :
    OnlyPc s (skipOnKey s b wanted) ∧
      (skipOnKey s b wanted).pc = if s.getKey ⟨b.toNat, h⟩ = wanted then s.pc + 2 else s.pc := by
  rcases skipOnKey_cases s b wanted with ⟨hge, -⟩ | ⟨_, he⟩
  · exact absurd h (Nat.not_lt.mpr hge)
  · rw [he]
    refine ⟨onlyPc_skipIf s _, ?_⟩
    simp only [State.skipIf_pc, beq_iff_eq]

/-- A byte above 15 names no key, and the skip is the key fault, whichever flag was wanted (R213). -/
theorem skipOnKey_of_gt (s : State) {b : Byte} (h : 15 < b.toNat) (wanted : Bool) :
    skipOnKey s b wanted = FaultedFrom s .key (some b.toNat) := by
  rcases skipOnKey_cases s b wanted with ⟨-, he⟩ | ⟨hlt, -⟩
  · exact he
  · exact absurd h (Nat.not_lt.mpr (Nat.le_of_lt_succ hlt))

/-- Settles O55: one skip, by the named key's flag being set or being clear. -/
theorem skipsOnKey : Obligations.SkipsOnKey := by
  intro x s
  refine ⟨fun h => ?named, fun h => ?fault⟩
  case named =>
    obtain ⟨honly, hpc⟩ := skipOnKey_of_lt s h false
    refine ⟨⟨_, rfl, skipOnKey_of_lt s h true⟩, _, rfl, honly, ?_⟩
    simp only [hpc, ← Bool.not_eq_true, ite_not]
  case fault => exact ⟨congrArg _ (skipOnKey_of_gt s h true), congrArg _ (skipOnKey_of_gt s h false)⟩

/-! ## The wait for a release (R212, R123) -/

/-- A key's number fits a register (R212). -/
@[simp] theorem keyByte_toNat (k : Key) : (keyByte k).toNat = k.val := by
  rw [keyByte, BitVec.toNat_ofNat, Nat.mod_eq_of_lt (by omega)]

/-- A pending release clears the key's flag and gives its number to `V[x]` (R212). -/
theorem exec_waitKeypress_of_released (x : Reg) {s : State} {k : Key} (h : s.keyReleased = some k) :
    exec (.waitKeypress x) s = .next ((s.setKey k false).setV x (keyByte k)) := by
  simp only [exec, execWaitKeypress, h]

/-- Without a release `pc` goes back to the instruction (R212). -/
theorem exec_waitKeypress_of_none (x : Reg) {s : State} (h : s.keyReleased = none) :
    exec (.waitKeypress x) s = .next (s.setPc (s.pc - 2)) := by
  simp only [exec, execWaitKeypress, h]

/-- Settles O56: the release event decides between the two writes of a completed wait and the one of a rewind. -/
theorem waitKeypressCompletesOrRewinds : Obligations.WaitKeypressCompletesOrRewinds := by
  intro x s
  refine ⟨fun k hk => ?released, fun hnone => ?waiting⟩
  case released =>
    refine ⟨_, exec_waitKeypress_of_released x hk, ?_, fun r hr => ?_, ?_, fun j hj => ?_, rfl, fun _ => rfl⟩
    · rw [State.getV_setV_self, keyByte_toNat]
    · rw [State.getV_setV_of_ne _ _ hr, State.getV_setKey]
    · rw [State.getKey_setV, State.getKey_setKey, if_pos rfl]
    · rw [State.getKey_setV, State.getKey_setKey, if_neg hj]
  case waiting => exact ⟨_, exec_waitKeypress_of_none x hnone, rfl, onlyPc_setPc s _⟩

end Sys2Proof.Machine
end

section
/-! PROOFS. The drawing instructions (R220 to R224): the cleared grid, and the sprite behind its bounds check (R63). The
cells and the collision are the closed form of the loops (`drawSprite_cell`, `drawSprite_hit`). -/

namespace Sys2Proof.Machine

/-! ## Clear (R221) -/

/-- Settles O57: `exec` puts the cleared grid in place, a write that reaches no register. -/
theorem clearTurnsAllOff : Obligations.ClearTurnsAllOff := by
  refine ⟨decodeOfEncode .clear rfl, fun s => ⟨_, rfl, fun row col => ?cells, rfl, ?vf, rfl, ?memory⟩⟩
  case cells => rw [State.display_fb, Framebuffer.cell_allOff]
  case vf => exact s.getV_display _ 15
  case memory => exact s.readByte_display _

/-! ## The collision flag (D13) -/

/-- A register after the collision flag: only a collision writes, and only VF (R222). -/
theorem State.getV_setCollision (s : State) (hit : Bool) (r : Reg) :
    (s.setCollision hit).getV r = if hit = true ∧ r = vf then 1 else s.getV r := by
  cases hit
  · simp [State.setCollision]
  · simp [State.setCollision, State.getV_setV]

/-- The collision flag leaves everything but the general registers. -/
theorem State.setCollision_eq (s : State) (hit : Bool) :
    s.setCollision hit = { s with V := (s.setCollision hit).V } := by
  cases hit <;> rfl

/-! ## The state after a sprite that fits (R222) -/

/-- The state after the sprite of `n` rows at `(V[x], V[y])`, where its bytes are in memory (R222). -/
def State.drawn (s : State) (x y : Reg) (n : Nat) : State :=
  (s.display (drawSprite s (s.getV x) (s.getV y) n).fb).setCollision (drawSprite s (s.getV x) (s.getV y) n).hit

/-- A sprite whose bytes are in memory is drawn. -/
theorem exec_draw_of_fits (x y : Reg) {n : Nat} {s : State} (h : n = 0 ∨ s.I.toNat + (n - 1) ≤ 0xFFF) :
    exec (.draw x y n) s = .next (s.drawn x y n) :=
  congrArg _ (if_pos ((s.blockInRange_iff n).mpr (h.imp_right Nat.lt_succ_of_le)))

/-- A sprite with a byte outside memory is the data fault. -/
theorem exec_draw_of_exceeds (x y : Reg) {n : Nat} {s : State} (hn : 0 < n) (h : 0xFFF < s.I.toNat + (n - 1)) :
    exec (.draw x y n) s = .next (FaultedFrom s .data (some (max s.I.toNat 0x1000))) := by
  have hout : s.blockInRange n = false := (s.blockInRange_eq_false_iff n).mpr ⟨Nat.ne_of_gt hn, h⟩
  simp only [exec, execDraw, hout, Bool.false_eq_true, if_false, raiseDataFault_eq]

/-- Drawing changes the general registers, the grid and `present` alone. -/
theorem State.drawn_eq (s : State) (x y : Reg) (n : Nat) :
    s.drawn x y n = { s with V := (s.drawn x y n).V, fb := (s.drawn x y n).fb, present := true } := by
  rw [State.drawn, State.setCollision_eq]
  rfl

/-- Each cell after the sprite is XORed with the sprite bit on it (R222). -/
theorem State.cell_drawn (s : State) (x y : Reg) {n : Nat} (hn : n < 16) (row : Fin 32) (col : Fin 64) :
    Framebuffer.cell (s.drawn x y n).fb row col
      = (Framebuffer.cell s.fb row col ^^ drawnBit s (s.getV x) (s.getV y) n row col) := by
  rw [State.drawn, State.setCollision_eq]
  exact drawSprite_cell s _ _ (by omega) row col

/-- A register after the sprite: VF is set by a collision, everything else stays (R222, D13). -/
theorem State.getV_drawn (s : State) (x y : Reg) (n : Nat) (r : Reg) :
    (s.drawn x y n).getV r
      = if (drawSprite s (s.getV x) (s.getV y) n).hit = true ∧ r = vf then 1 else s.getV r := by
  rw [State.drawn, State.getV_setCollision, State.getV_display]

theorem State.getV_drawn_of_ne_vf (s : State) (x y : Reg) (n : Nat) {r : Reg} (hr : r ≠ 15) :
    (s.drawn x y n).getV r = s.getV r := by
  rw [State.getV_drawn, if_neg fun h => hr h.2]

/-- The sprite bits read `I` and memory, which drawing leaves alone. -/
theorem drawnBit_drawn (s : State) (x y : Reg) (n : Nat) (x0 y0 : Byte) (m : Nat) :
    drawnBit (s.drawn x y n) x0 y0 m = drawnBit s x0 y0 m := by
  rw [State.drawn_eq]
  rfl

/-- Settles O58: the closed form of the loops, behind the bounds check. -/
theorem drawClosedForm : Obligations.DrawClosedForm := by
  intro x y n s hn
  have hhit := drawSprite_hit s (s.getV x) (s.getV y) (n := n) (by omega)
  refine ⟨fun hfits => ⟨s.drawn x y n, exec_draw_of_fits x y hfits, s.cell_drawn x y hn, fun hsome => ?collision,
    fun hnone => ?noCollision, fun r hr => s.getV_drawn_of_ne_vf x y n hr, ?present, ?frame, fun a => ?memory⟩,
    exec_draw_of_exceeds x y⟩
  case collision => rw [State.getV_drawn, if_pos ⟨hhit.mpr hsome, rfl⟩]
  case noCollision =>
    have hclear : (drawSprite s (s.getV x) (s.getV y) n).hit ≠ true := by
      intro h
      obtain ⟨row, col, hbit, hon⟩ := hhit.mp h
      exact Bool.false_ne_true ((hnone row col hbit).symm.trans hon)
    rw [State.getV_drawn, if_neg fun h => hclear h.1]
  case present => rw [State.drawn_eq]
  case frame => rw [State.drawn_eq]
  case memory => rw [State.drawn_eq]; rfl

/-- Settles O59: the second sprite has the first one's bits, and a cell XORed twice with one bit is itself. -/
theorem drawTwiceRestoresGrid : Obligations.DrawTwiceRestoresGrid := by
  intro x y n s u hn hx hy hfits hu
  rw [exec_draw_of_fits x y hfits] at hu
  injection hu with hu
  subst hu
  have hI : (s.drawn x y n).I = s.I := by rw [State.drawn_eq]
  refine ⟨_, exec_draw_of_fits x y (by rwa [hI]), Framebuffer.ext_cell fun row col => ?_⟩
  rw [State.cell_drawn _ x y hn, drawnBit_drawn, State.getV_drawn_of_ne_vf _ _ _ _ hx,
    State.getV_drawn_of_ne_vf _ _ _ _ hy, State.cell_drawn s x y hn, Bool.xor_assoc, Bool.xor_self, Bool.xor_false]

end Sys2Proof.Machine
end

section
/-! PROOFS. The refusals of boot (R284, R286), and faults: which instruction raises which (R230, R231), and that a step
which leaves one leaves the cycle's start and the record (R232, R234). -/

namespace Sys2Proof.Machine

/-! ## Boot's refusals -/

/-- Settles O9: the rate is checked before the image. -/
theorem bootRefusals : Obligations.BootRefusals := by
  intro cfg rom now
  refine ⟨fun hrate => ?_, fun hpos hmod hlen => ?_⟩
  · rw [← rateValid_iff, Bool.not_eq_true] at hrate
    rw [boot, if_pos hrate]
  · have hvalid : rateValid cfg = true := (rateValid_iff cfg).mpr ⟨hpos, hmod⟩
    have hlong : rom.length > romMax := hlen
    rw [boot, if_neg (by simp [hvalid]), if_pos hlong]

/-! ## The raisers (R230, R231) -/

/-- The instruction raises this cause with this `faddr`: a line for each pair of an instruction and a fault (R230). -/
inductive Raises (s : State) : Instr → FaultCause → Option Nat → Prop where
  | nop (h : s.cfg.unknownOpcodeFaults = true) : Raises s .nop .decode none
  | call (nnn : BitVec 12) (h : 16 ≤ s.SP.toNat) : Raises s (.call nnn) .stackOverflow none
  | ret (h : s.SP.toNat = 0) : Raises s .ret .stackUnderflow none
  | draw (x y : Reg) {n : Nat} (hn : 0 < n) (h : 0xFFF < s.I.toNat + (n - 1)) :
      Raises s (.draw x y n) .data (some (max s.I.toNat 0x1000))
  | storeBcd (x : Reg) (h : 0xFFF < s.I.toNat + 2) : Raises s (.storeBcd x) .data (some (max s.I.toNat 0x1000))
  | storeRegs {x : Reg} (h : 0xFFF < s.I.toNat + x.val) : Raises s (.storeRegs x) .data (some (max s.I.toNat 0x1000))
  | loadRegs {x : Reg} (h : 0xFFF < s.I.toNat + x.val) : Raises s (.loadRegs x) .data (some (max s.I.toNat 0x1000))
  | skipPressed {x : Reg} (h : 15 < (s.getV x).toNat) : Raises s (.skipPressed x) .key (some (s.getV x).toNat)
  | skipNotPressed {x : Reg} (h : 15 < (s.getV x).toNat) : Raises s (.skipNotPressed x) .key (some (s.getV x).toNat)

/-- The state of a fault that the instruction raises, or one with the fault record as it was. -/
def RaisesOrKeeps (i : Instr) (s t : State) : Prop :=
  (∃ c a, Raises s i c a ∧ t = FaultedFrom s c a) ∨ t.fault = s.fault

theorem State.skipIf_fault (s : State) (p : Bool) : (s.skipIf p).fault = s.fault := by
  rw [State.skipIf_eq]

/-- A block access checked by its bounds raises the data fault only for a block that does not fit (R63). -/
theorem raisesOrKeeps_of_block {i : Instr} {s t : State} {len : Nat} (ht : t.fault = s.fault)
    (hraise : len ≠ 0 → 0xFFF < s.I.toNat + (len - 1) → Raises s i .data (some (max s.I.toNat 0x1000))) :
    RaisesOrKeeps i s (if s.blockInRange len then t else raiseDataFault s) := by
  cases hfits : s.blockInRange len
  · obtain ⟨hlen, hlast⟩ := (s.blockInRange_eq_false_iff len).mp hfits
    exact .inl ⟨_, _, hraise hlen hlast, rfl⟩
  · exact .inr ht

/-- The skip on a key raises the key fault only for a byte that names no key (R213). -/
theorem raisesOrKeeps_skipOnKey {i : Instr} {s : State} {b : Byte} (wanted : Bool)
    (hraise : 15 < b.toNat → Raises s i .key (some b.toNat)) : RaisesOrKeeps i s (skipOnKey s b wanted) := by
  rcases skipOnKey_cases s b wanted with ⟨hb, he⟩ | ⟨_, he⟩ <;> rw [he]
  · exact .inl ⟨_, _, hraise hb, rfl⟩
  · exact .inr (State.skipIf_fault s _)

/-- If an instruction answers a next state, it has raised its own fault or kept the fault record (R230, R231). -/
theorem exec_raisesOrKeeps {i : Instr} {s t : State} (h : exec i s = .next t) : RaisesOrKeeps i s t := by
  cases i
  case ret =>
    by_cases hempty : s.SP.toNat = 0
    · rw [exec_ret_of_empty hempty] at h
      injection h with h
      exact .inl ⟨_, _, .ret hempty, h.symm⟩
    · rw [exec, execRet, if_neg hempty] at h
      split at h
      · injection h with h
        exact .inr (h ▸ rfl)
      · cases h
  all_goals (injection h with h; subst h)
  case nop =>
    split
    · next hpolicy => exact .inl ⟨_, _, .nop hpolicy, rfl⟩
    · exact .inr rfl
  case call nnn =>
    split
    · exact .inr rfl
    · next hfull => exact .inl ⟨_, _, .call nnn (Nat.not_lt.mp hfull), rfl⟩
  case skipEqIm | skipNeIm | skipEq | skipNe => exact .inr (State.skipIf_fault s _)
  case skipPressed => exact raisesOrKeeps_skipOnKey true .skipPressed
  case skipNotPressed => exact raisesOrKeeps_skipOnKey false .skipNotPressed
  case draw x y n =>
    refine raisesOrKeeps_of_block ?_ fun hn => .draw x y (Nat.pos_of_ne_zero hn)
    rw [State.setCollision_eq]
    rfl
  case storeBcd x => exact raisesOrKeeps_of_block rfl fun _ => .storeBcd x
  case storeRegs => exact raisesOrKeeps_of_block (by rw [storeBlock_eq]) fun _ => .storeRegs
  case loadRegs => exact raisesOrKeeps_of_block (by rw [loadBlock_eq]) fun _ => .loadRegs
  case waitKeypress => split <;> exact .inr rfl
  all_goals exact .inr rfl

/-- Settles O17: the record is that of one line of `Raises`, since the state before held none. -/
theorem faultsAndTheirRaisers : Obligations.FaultsAndTheirRaisers := by
  intro i s t r hnone h hr
  rcases exec_raisesOrKeeps h with ⟨c, a, hraise, rfl⟩ | hkeep
  · cases hr
    cases hraise with
    | nop hpolicy => exact .inl ⟨rfl, rfl, rfl, rfl, rfl, hpolicy⟩
    | call nnn hfull => exact .inr (.inl ⟨rfl, rfl, rfl, rfl, ⟨nnn, rfl⟩, hfull⟩)
    | ret hempty => exact .inr (.inr (.inl ⟨rfl, rfl, rfl, rfl, rfl, hempty⟩))
    | draw x y hn hI => exact .inr (.inr (.inr (.inl ⟨rfl, rfl, rfl, rfl, .inl ⟨x, y, _, rfl, hn, hI⟩⟩)))
    | storeBcd x hI => exact .inr (.inr (.inr (.inl ⟨rfl, rfl, rfl, rfl, .inr (.inl ⟨x, rfl, hI⟩)⟩)))
    | storeRegs hI => exact .inr (.inr (.inr (.inl ⟨rfl, rfl, rfl, rfl, .inr (.inr ⟨_, .inl rfl, hI⟩)⟩)))
    | loadRegs hI => exact .inr (.inr (.inr (.inl ⟨rfl, rfl, rfl, rfl, .inr (.inr ⟨_, .inr rfl, hI⟩)⟩)))
    | skipPressed hkey => exact .inr (.inr (.inr (.inr ⟨rfl, rfl, rfl, _, .inl rfl, hkey, rfl⟩)))
    | skipNotPressed hkey => exact .inr (.inr (.inr (.inr ⟨rfl, rfl, rfl, _, .inr rfl, hkey, rfl⟩)))
  · rw [hnone, hr] at hkeep
    cases hkeep

/-! ## Precise faults (R232, R234) -/

/-- What the record of a fault in the cycle from `s` says of it (R234): the instruction's address, and for a fetch fault
the lowest address above memory, for every other the word at the instruction's address. -/
def FaultRecord.describes (r : FaultRecord) (s : State) : Prop :=
  r.fpc = s.pc ∧
    (r.cause = .fetch → r.cause.code = 3 ∧ r.cause.kind = some .fetch ∧ 0x0FFE < s.pc.toNat ∧ r.fir = none ∧
      r.faddr = some (max s.pc.toNat 0x1000)) ∧
    (r.cause ≠ .fetch → s.pc.toNat ≤ 0x0FFE ∧
      r.fir = some (wordOfBytes (s.readByte s.pc.toNat) (s.readByte (s.pc.toNat + 1))))

/-- The fetch's fault is the entry of a fault at the cycle's start (R121, R232). -/
theorem raiseFetchFault_startCycle {s : State} (hpc : 0x0FFE < s.pc.toNat) :
    ∃ r : FaultRecord, r.describes s ∧ raiseFetchFault (startCycle s.enterGap) = enterFault s.enterGap r := by
  refine ⟨_, ⟨?fpc, fun _ => ⟨rfl, rfl, hpc, rfl, ?faddr⟩, absurd rfl⟩, rfl⟩
  case fpc => exact enterGap_pc s
  case faddr => exact congrArg (fun w : Word => some (max w.toNat 0x1000)) (enterGap_pc s)

/-- A fault of the instruction is the entry of a fault at the cycle's start: nothing else is left of the cycle
(R63, R232). -/
theorem FaultedFrom_startCycle {s : State} {c : FaultCause} (hc : c ≠ .fetch) (hpc : s.pc.toNat ≤ 0x0FFE)
    (a : Option Nat) : ∃ r : FaultRecord, r.describes s ∧
      FaultedFrom (advancePc (startCycle s.enterGap)) c a = enterFault s.enterGap r := by
  rw [FaultedFrom_advancePc]
  refine ⟨_, ⟨enterGap_pc s, fun hfetch => absurd hfetch hc, fun _ => ⟨hpc, ?fir⟩⟩, rfl⟩
  case fir => simp only [State.readByte, enterGap_mem, enterGap_pc]

/-- If a step answers a next state, it has ended a sleep, left the cycle's start with a fault record, or run an
instruction without a fault and then the cycle's end (R120, R232, R258). -/
theorem step_sleep_fault_or_end {s t : State} (h : step s = .next t) :
    (s.sleeping = true ∧ t = wakeUp s.enterGap) ∨
      (∃ r : FaultRecord, r.describes s ∧ t = enterFault s.enterGap r) ∨
      ∃ u : State, exec (fetchInstr (startCycle s.enterGap)) (advancePc (startCycle s.enterGap)) = .next u ∧
        u.fault = none ∧ t = finishCycle u := by
  obtain ⟨hnone, -, -, hsleep | ⟨-, hpc, rfl⟩ | ⟨-, hpc, u, hu, ⟨hfault, rfl⟩ | hend⟩⟩ := step_next_cases h
  · exact .inl hsleep
  · exact .inr (.inl (raiseFetchFault_startCycle hpc))
  · rcases exec_next_cases hu with ⟨c, a, hc, rfl⟩ | harch
    · exact .inr (.inl (FaultedFrom_startCycle hc hpc a))
    · have hkeep : t.fault = s.enterGap.fault := by rw [harch]; rfl
      exact absurd (hkeep.trans ((enterGap_fault s).trans hnone)) hfault
  · exact .inr (.inr ⟨u, hu, hend⟩)

/-- A step that leaves a fault record has left the cycle's start with it (R232). -/
theorem step_faulted {s t : State} (hnone : s.fault = none) (h : step s = .next t) (hf : t.fault ≠ none) :
    ∃ r : FaultRecord, r.describes s ∧ t = enterFault s.enterGap r := by
  rcases step_sleep_fault_or_end h with ⟨-, rfl⟩ | hfault | ⟨u, -, hu, rfl⟩
  · exact absurd ((enterGap_fault s).trans hnone) hf
  · exact hfault
  · exact absurd ((finishCycle_fault u).trans hu) hf

/-- Settles O16: the record describes the fault, and the rest is the entry of a fault at the cycle's start. -/
theorem faultsArePrecise : Obligations.FaultsArePrecise := by
  intro s t hnone h hf
  obtain ⟨r, hdescribes, rfl⟩ := step_faulted hnone h hf
  exact ⟨r, rfl, hdescribes⟩

end Sys2Proof.Machine
end

section
/-! PROOFS. The cycle counter (R248), the timers and the tone (R247, R249), step by step. -/

namespace Sys2Proof.Machine

/-! ## The cycle counter (R248) -/

/-- Settles O20: the cycle's end counts, and a fault leaves the cycle's start. -/
theorem cycleCounterCounts : Obligations.CycleCounterCounts := by
  intro s t hready h
  refine ⟨fun hf => ?completed, fun hf => ?faulted⟩
  case completed =>
    obtain ⟨u, hu, -, rfl⟩ := step_completed hready h hf
    obtain ⟨-, hcount, -⟩ := exec_eq_outside_table hu
    rw [finishCycle_cycleCount_toNat, hcount, ← enterGap_cycleCount s]
    rfl
  case faulted =>
    obtain ⟨hnone, -, -, -⟩ := (State.ready_iff _).mp hready
    obtain ⟨r, -, rfl⟩ := step_faulted ((enterGap_fault s).symm.trans hnone) h hf
    rw [enterFault_cycleCount, enterGap_cycleCount]

/-! ## The timers (R247) -/

/-- A timer that counts down or stands still does not rise. -/
theorem countDown_ite_le (p : Prop) [Decidable p] (b : Byte) : (if p then countDown b else b).toNat ≤ b.toNat := by
  split
  · rw [countDown_toNat]
    exact Nat.sub_le _ _
  · exact Nat.le_refl _

/-- What is fetched after the gap is what lies at `pc` before it. -/
theorem fetchInstr_startCycle_enterGap_eq (s : State) : fetchInstr (startCycle s.enterGap) = fetchInstr s :=
  fetchInstr_startCycle_enterGap s

/-- A step keeps both timers, or leaves them no higher than the instruction it has run (R246, R247). -/
theorem step_timers_cases {s t : State} (h : step s = .next t) :
    (t.DT = s.DT ∧ t.ST = s.ST) ∨
      ∃ u : State, exec (fetchInstr s) (advancePc (startCycle s.enterGap)) = .next u ∧
        t.DT.toNat ≤ u.DT.toNat ∧ t.ST.toNat ≤ u.ST.toNat := by
  rcases step_sleep_fault_or_end h with ⟨-, rfl⟩ | ⟨r, -, rfl⟩ | ⟨u, hu, -, rfl⟩
  · exact .inl ⟨enterGap_DT s, enterGap_ST s⟩
  · exact .inl ⟨enterGap_DT s, enterGap_ST s⟩
  · rw [fetchInstr_startCycle_enterGap_eq] at hu
    rw [finishCycle_DT, finishCycle_ST]
    exact .inr ⟨u, hu, countDown_ite_le _ u.DT, countDown_ite_le _ u.ST⟩

/-- `LoadDelayTimer` alone writes DT (R37). -/
theorem DT_mem_writes {i : Instr} (h : Element.DT ∈ writes i) : ∃ x, i = .loadDelayTimer x := by
  cases i
  case loadDelayTimer x => exact ⟨x, rfl⟩
  all_goals simp [writes] at h

/-- `LoadSoundTimer` alone writes ST (R37). -/
theorem ST_mem_writes {i : Instr} (h : Element.ST ∈ writes i) : ∃ x, i = .loadSoundTimer x := by
  cases i
  case loadSoundTimer x => exact ⟨x, rfl⟩
  all_goals simp [writes] at h

theorem step_DT_le {s t : State} (h : step s = .next t) (hload : ∀ x, fetchInstr s ≠ .loadDelayTimer x) :
    t.DT.toNat ≤ s.DT.toNat := by
  rcases step_timers_cases h with ⟨hDT, -⟩ | ⟨u, hu, hDT, -⟩
  · exact Nat.le_of_eq (congrArg BitVec.toNat hDT)
  · have hkeep : u.DT = s.enterGap.DT :=
      exec_unchanged hu (e := .DT) (fun hw => (DT_mem_writes hw).elim hload) nofun
    rwa [hkeep, enterGap_DT] at hDT

theorem step_ST_le {s t : State} (h : step s = .next t) (hload : ∀ x, fetchInstr s ≠ .loadSoundTimer x) :
    t.ST.toNat ≤ s.ST.toNat := by
  rcases step_timers_cases h with ⟨-, hST⟩ | ⟨u, hu, -, hST⟩
  · exact Nat.le_of_eq (congrArg BitVec.toNat hST)
  · have hkeep : u.ST = s.enterGap.ST :=
      exec_unchanged hu (e := .ST) (fun hw => (ST_mem_writes hw).elim hload) nofun
    rwa [hkeep, enterGap_ST] at hST

/-- A byte that is no higher than 0 is 0. -/
theorem eq_zero_of_toNat_le {a b : Byte} (h : a.toNat ≤ b.toNat) (hb : b = 0) : a = 0 := by
  subst hb
  exact BitVec.eq_of_toNat_eq (Nat.le_zero.mp h)

/-- Settles O21: the one instruction that writes a timer is excluded, and the tick does not raise it. -/
theorem timersNeverRise : Obligations.TimersNeverRise := by
  intro s t h
  refine ⟨fun hload => ?_, fun hload => ?_⟩
  · have hle := step_DT_le h hload
    exact ⟨hle, eq_zero_of_toNat_le hle⟩
  · have hle := step_ST_le h hload
    exact ⟨hle, eq_zero_of_toNat_le hle⟩

/-! ## The tone (R249) -/

theorem toneSampled_enterGap {s : State} (h : ToneSampled s) : ToneSampled s.enterGap := by
  rwa [ToneSampled, enterGap_tone, enterGap_ST]

/-- Settles O27: the cycle's end samples the tone; where none is reached, neither the tone nor ST is written. -/
theorem toneStaysSampled : Obligations.ToneStaysSampled := by
  intro s t hs h
  rcases step_sleep_fault_or_end h with ⟨-, rfl⟩ | ⟨r, -, rfl⟩ | ⟨u, -, -, rfl⟩
  · exact toneSampled_enterGap hs
  · exact toneSampled_enterGap hs
  · exact finishCycle_tone u

end Sys2Proof.Machine
end

section
/-! PROOFS. The throttle from step to step: its debt stays bounded (R259), its clock never runs back (R257), and nothing
but its own state depends on it (R260). -/

namespace Sys2Proof.Machine

/-! ## What a step does to the throttle's state -/

/-- A step keeps the throttle's state, or ends a sleep, or runs the throttle on it at the cycle's end (R232, R255). -/
theorem step_throttle_cases {s t : State} (h : step s = .next t) :
    (t.debt = s.debt ∧ t.wtimer = s.wtimer) ∨ (s.sleeping = true ∧ t = wakeUp s.enterGap) ∨
      ∃ u : State, u.debt = s.debt ∧ u.wtimer = s.wtimer ∧ t = finishCycle u := by
  rcases step_sleep_fault_or_end h with hsleep | ⟨r, -, rfl⟩ | ⟨u, hu, -, hend⟩
  · exact .inr (.inl hsleep)
  · exact .inl ⟨enterGap_debt s, enterGap_wtimer s⟩
  · obtain ⟨-, -, hdebt, hwtimer, -⟩ := exec_eq_outside_table hu
    exact .inr (.inr ⟨u, hdebt.trans (enterGap_debt s), hwtimer.trans (enterGap_wtimer s), hend⟩)

/-! ## The debt (R259) -/

/-- A debt above the threshold is slept off in the same call (R256). -/
theorem debtBounded_throttleWake {s : State} (hd : DebtBounded s) (t0 t1 : Nat) :
    DebtBounded (throttleWake t1 (throttleEnter t0 s)) := by
  cases hs : (throttleEnter t0 s).sleeping
  · rw [throttleWake_of_awake t1 hs]
    exact throttleEnter_debt_of_awake hd hs
  · rw [DebtBounded, throttleWake_debt_of_asleep t1 hs]
    exact Nat.zero_le _

theorem wakeUp_debt_of_asleep {s : State} (h : s.sleeping = true) : (wakeUp s).debt = 0 :=
  throttleWake_debt_of_asleep (wakeTime s) h

/-- Settles O29: a sleep ends with no debt, and the throttle's call keeps the bound. -/
theorem debtStaysBounded : Obligations.DebtStaysBounded := by
  intro s t hs h
  unfold DebtBounded at hs ⊢
  rcases step_throttle_cases h with ⟨hdebt, -⟩ | ⟨hsleep, rfl⟩ | ⟨u, hdebt, -, rfl⟩
  · rwa [hdebt]
  · rw [wakeUp_debt_of_asleep ((enterGap_sleeping s).trans hsleep)]
    exact Nat.zero_le _
  · rw [← hdebt] at hs
    obtain ⟨t1, -, -, hend, -⟩ := finishCycle_throttle u
    rw [hend]
    exact debtBounded_throttleWake hs _ t1

/-! ## The clock (R257, R258) -/

/-- A sleep's end moves the window's start to the wake-up time, and nothing else moves it (R256). -/
theorem wtimer_le_throttleWake {s : State} {t1 : Nat} (hle : s.wtimer.toNat ≤ t1) (hlt : t1 < 2 ^ 64) :
    s.wtimer.toNat ≤ (throttleWake t1 s).wtimer.toNat := by
  cases hs : s.sleeping
  · exact Nat.le_of_eq (congrArg (fun u : State => u.wtimer.toNat) (throttleWake_of_awake t1 hs).symm)
  · rwa [throttleWake_wtimer_of_asleep hs hlt]

theorem wtimer_le_wakeUp (s : State) : s.wtimer.toNat ≤ (wakeUp s).wtimer.toNat := by
  obtain ⟨hwake, hlt⟩ := wakeTime_bounds s
  have hle : s.wtimer.toNat ≤ wakeTime s := by
    have := s.wtimer.isLt
    omega
  exact wtimer_le_throttleWake hle hlt

theorem wtimer_le_finishCycle (s : State) : s.wtimer.toNat ≤ (finishCycle s).wtimer.toNat := by
  obtain ⟨hlo, hhi⟩ := clockNow_bounds s
  obtain ⟨t1, hwake, hlt, -, hend⟩ := finishCycle_throttle s
  have hentry : (throttleEnter (clockNow s) s).wtimer.toNat = clockNow s := throttleEnter_wtimer_toNat s hhi
  calc s.wtimer.toNat
      ≤ (throttleEnter (clockNow s) s).wtimer.toNat := by rwa [hentry]
    _ ≤ (throttleWake t1 (throttleEnter (clockNow s) s)).wtimer.toNat :=
        wtimer_le_throttleWake (by rw [hentry]; omega) hlt
    _ = (finishCycle s).wtimer.toNat := by rw [hend]

/-- Settles O30: the entry sample is at least `wtimer`, and so is the wake-up time. -/
theorem clockNeverRunsBack : Obligations.ClockNeverRunsBack := by
  refine ⟨fun s => (clockNow_bounds s).1, fun s t h => ?_⟩
  rcases step_throttle_cases h with ⟨-, hwtimer⟩ | ⟨-, rfl⟩ | ⟨u, -, hwtimer, rfl⟩
  · exact Nat.le_of_eq (congrArg BitVec.toNat hwtimer.symm)
  · rw [← enterGap_wtimer s]
    exact wtimer_le_wakeUp s.enterGap
  · rw [← hwtimer]
    exact wtimer_le_finishCycle u

/-! ## Nothing else depends on the throttle (R260) -/

theorem enterGap_eraseThrottle (s : State) : (eraseThrottle s).enterGap = eraseThrottle s.enterGap := by
  cases hin : s.inputs with
  | nil => rw [enterGap_of_nil hin, enterGap_of_nil (s := eraseThrottle s) hin]
  | cons ws later =>
    rw [enterGap_of_cons hin, enterGap_of_cons (s := eraseThrottle s) hin]
    exact applyWrites_throttle ws { s with inputs := later } 0 0 0

/-- No instruction reads the throttle's state or writes it. -/
theorem exec_eraseThrottle (i : Instr) (s : State) :
    exec i (eraseThrottle s) = mapNext eraseThrottle (exec i s) := by
  have hreplace := exec_withCounters s.cycleCount 0 0 0 s.tone i s
  refine Eq.trans hreplace ?_
  cases ho : exec i s with
  | next t =>
    obtain ⟨-, hcount, -, -, htone, -⟩ := exec_eq_outside_table ho
    simp only [mapNext, withCounters, eraseThrottle, ← hcount, ← htone]
  | fault r => rfl
  | refused r => rfl

/-- A sleep's end writes `sleeping` and the throttle's state alone (R256). -/
theorem eraseThrottle_wakeUp (s : State) : eraseThrottle (wakeUp s) = eraseThrottle { s with sleeping := false } := rfl

/-- So does the throttle's call (R256). -/
theorem eraseThrottle_throttle (s : State) :
    eraseThrottle (throttle s) = eraseThrottle { s with sleeping := false } := rfl

/-- The timer update neither reads nor writes the throttle's state (R246). -/
theorem timerUpdate_eraseThrottle (s : State) : timerUpdate (eraseThrottle s) = eraseThrottle (timerUpdate s) := rfl

theorem eraseThrottle_finishCycle (s : State) :
    eraseThrottle (finishCycle (eraseThrottle s)) = eraseThrottle (finishCycle s) := by
  rw [finishCycle, finishCycle, timerUpdate_eraseThrottle, eraseThrottle_throttle, eraseThrottle_throttle]
  rfl

theorem completeCycle_eraseThrottle (o : Host.Outcome State Fault Refusal) :
    mapNext eraseThrottle (completeCycle (mapNext eraseThrottle o)) = mapNext eraseThrottle (completeCycle o) := by
  cases o with
  | next u =>
    by_cases hf : u.fault = none
    · rw [completeCycle_of_no_fault hf, mapNext, completeCycle_of_no_fault (u := eraseThrottle u) hf]
      exact congrArg Host.Outcome.next (eraseThrottle_finishCycle u)
    · rw [completeCycle_of_fault hf, mapNext, completeCycle_of_fault (u := eraseThrottle u) hf]
      rfl
  | fault r => rfl
  | refused r => rfl

/-- A step without the throttle's state comes to the same as one with it, but for that state. -/
theorem step_eraseThrottle (s : State) :
    mapNext eraseThrottle (step (eraseThrottle s)) = mapNext eraseThrottle (step s) := by
  have hfault : (eraseThrottle s).fault = s.fault := rfl
  have hrun : cannotRun (eraseThrottle s.enterGap) = cannotRun s.enterGap := rfl
  have hsleep : (eraseThrottle s.enterGap).sleeping = s.enterGap.sleeping := rfl
  have hfetch : fetchFaults (startCycle (eraseThrottle s.enterGap)) = fetchFaults (startCycle s.enterGap) := rfl
  rw [step, step, enterGap_eraseThrottle, hfault, hrun, hsleep, hfetch]
  split
  case isTrue => rfl
  case isFalse =>
    cases cannotRun s.enterGap
    case some => rfl
    case none =>
      dsimp only
      split
      case isTrue =>
        simp only [mapNext, eraseThrottle_wakeUp]
        rfl
      case isFalse =>
        split
        case isTrue => rfl
        case isFalse =>
          rw [← completeCycle_eraseThrottle (exec (fetchInstr (startCycle s.enterGap)) _), ← exec_eraseThrottle]
          rfl

/-- Settles O31: both states are the same one once the throttle's state is erased. -/
theorem throttleInvisible : Obligations.ThrottleInvisible := by
  intro s d w k
  have herase : eraseThrottle { s with debt := d, wtimer := w, clockReads := k } = eraseThrottle s := rfl
  rw [← step_eraseThrottle, herase, step_eraseThrottle]

end Sys2Proof.Machine
end
